-- ==== Sys2Proof/Word.lean ====
section
/-! DEFINITION. The word types of the core: 64-bit register storage (R24) and the byte cells of MSG, PADBUF and DIGEST (R41, R42, R43). -/

namespace Sys2Proof

/-- The storage of a data register: 64 bits in both variants (R24).  A narrow word is below `2^32`. -/
abbrev Word := BitVec 64

/-- One cell of a byte memory, and one command word (R41, R77). -/
abbrev Byte := BitVec 8

end Sys2Proof
end

