-- ==== Sys2Proof/Config.lean ====
section
/-! DEFINITION. What one implementation fixes: the shape of a variant's configuration record (R8, R91), and the three open parameters a model takes as arguments (spec/92_eei_decisions.md): MSG_CAP (R10), the constants (R97), and the draw for a PADBUF cell that holds an unspecified byte (R57).  The default constants stand in `Machine/Constants.lean`, the two records in `Machine/Variants.lean`. -/

namespace Sys2Proof

/-- A triple of rotation or shift amounts (R93, R94). -/
structure Triple where
  a : Nat
  b : Nat
  c : Nat
  deriving DecidableEq, Repr

/-- The immutable configuration record of one variant (R8, R91).  Nothing in the machine changes it. -/
structure VariantConfig where
  /-- `word_bits`, the width `w` of a word. -/
  wordBits : Nat
  /-- `block_bits`. -/
  blockBits : Nat
  /-- `rounds`. -/
  rounds : Nat
  /-- `length_field_bits`. -/
  lengthFieldBits : Nat
  /-- `padding_target_bits`. -/
  paddingTargetBits : Nat
  /-- `round_constants`, K[0..rounds-1] (R96). -/
  roundConstants : List Word
  /-- `initial_state`, H0[0..7] (R96). -/
  initialState : Vector Word 8
  /-- (r0a, r0b, r0c) of `schedule_rotations` (R93). -/
  sched0 : Triple
  /-- (r1a, r1b, r1c) of `schedule_rotations` (R93). -/
  sched1 : Triple
  /-- (c0a, c0b, c0c) of `compression_rotations`, the FIRST triple, which belongs to Σ1 (R16, R94). -/
  comp0 : Triple
  /-- (c1a, c1b, c1c) of `compression_rotations`, the SECOND triple, which belongs to Σ0 (R16, R94). -/
  comp1 : Triple
  deriving DecidableEq, Repr

/-- The parameters K_256, K_512, H0_256 and H0_512 of R97.  Their types fix the lengths and that every word fits in `word_bits` (R95). -/
structure Constants where
  /-- K_256, the round constants of the narrow variant. -/
  k256 : Vector (BitVec 32) 64
  /-- K_512, the round constants of the wide variant. -/
  k512 : Vector (BitVec 64) 80
  /-- H0_256, the initial state of the narrow variant. -/
  h0Narrow : Vector (BitVec 32) 8
  /-- H0_512, the initial state of the wide variant. -/
  h0Wide : Vector (BitVec 64) 8
  deriving DecidableEq, Repr

/-- The largest MSG_CAP the spec allows, 2^64 − 256 (R10). -/
def Config.msgCapMax : Nat := 2 ^ 64 - 256

/-- MSG_CAP of the core that `State.reset` describes: any value of the range of R10, which names no default.  It has no body, so no proof knows it.  See assumption 2. -/
opaque Config.msgCap : Fin (Config.msgCapMax + 1)

/-- How many bytes PADBUF has beyond MSG_CAP (R10: PAD_CAP = MSG_CAP + 144). -/
def Config.padSlack : Nat := 144

/-- The unspecified byte of a PADBUF cell at an address at or above PADLEN (R57, I1): draw number `draw`, at address `addr`.
A free value: it has no body, so no proof knows it.  See assumption 3.  DESIGN CHOICE: it depends on the number of the draw and the address only, so two instances whose numbers are equal draw equal bytes, on which the spec is silent (R76, R180; assumption 22). -/
opaque Config.padDraw (draw addr : Nat) : Byte

end Sys2Proof
end

