-- ==== Sys2Proof/Syntax.lean ====
section
/-! DEFINITION. The commands of the core, one constructor for each row of spec/opcode_table.json (R79).  A command is the analogue of an instruction (R18). -/

namespace Sys2Proof

/-- A command (R79).  Only INIT and HASH carry an operand, the variant code `v` of R80; every other operand is implicit (R81). -/
inductive Instr where
  /-- NOP, word 0x00 (R156). -/
  | nop
  /-- INIT v, words 0x10..0x13 (R157). -/
  | init (v : Nat)
  /-- PAD, word 0x20 (R126). -/
  | pad
  /-- PARSE, word 0x30 (R132). -/
  | parse
  /-- EXPAND, word 0x40 (R138). -/
  | expand
  /-- ROUND, word 0x50 (R144). -/
  | round
  /-- FOLD, word 0x60 (R145). -/
  | fold
  /-- COMPRESS, word 0x70 (R146). -/
  | compress
  /-- FORMAT, word 0x80 (R158). -/
  | format
  /-- HASH v, words 0x90..0x93 (R159). -/
  | hash (v : Nat)
  deriving DecidableEq, Repr

end Sys2Proof
end

