-- ==== Sys2Proof/WellFormed.lean ====
section
/-! DEFINITION. Which commands a command word can express: the variant code of INIT and HASH is the unsigned value of a 2-bit field (R77, R80). -/

namespace Sys2Proof

/-- The operand of a command fits its field: `v = c[1:0]` is a 2-bit code (R80).  Codes 2 and 3 are well formed: they decode, and the execution raises UnsupportedVariant. -/
def Instr.wellFormed : Instr → Bool
  | .nop => true
  | .init v => decide (v < 4)
  | .pad => true
  | .parse => true
  | .expand => true
  | .round => true
  | .fold => true
  | .compress => true
  | .format => true
  | .hash v => decide (v < 4)

end Sys2Proof
end

