-- ==== Sys2Proof/Decode.lean ====
section
/-! DEFINITION. The decoder of R82, total on all 256 command words and rejecting the other 240 by the group of R83 they belong to, and the encoder of R79. -/

namespace Sys2Proof

/-- Why a word is ILLEGAL: the three groups of R83. -/
inductive IllegalWord where
  /-- An op value 0xA..0xF, which is reserved (R84): 96 words. -/
  | reservedOp
  /-- Op 0x1 or 0x9 with `rsv` ≠ 00: 24 words. -/
  | reservedBits
  /-- Op 0x0 or 0x2..0x8 with `c[3:0]` ≠ 0000: 120 words. -/
  | lowBits
  deriving DecidableEq, Repr

/-- The field `op = c[7:4]` (R77). -/
def opField (c : Byte) : BitVec 4 := c.extractLsb 7 4

/-- The field `rsv = c[3:2]` (R77). -/
def rsvField (c : Byte) : BitVec 2 := c.extractLsb 3 2

/-- The field `v = c[1:0]` (R77). -/
def variantField (c : Byte) : BitVec 2 := c.extractLsb 1 0

/-- A command without an operand: its low four bits must be 0000 (R82). -/
def decodePlain (c : Byte) (i : Instr) : Except IllegalWord Instr :=
  if c.extractLsb 3 0 = 0#4 then .ok i else .error .lowBits

/-- A command with the variant operand: its `rsv` field must be 00, and `v` is an unsigned code, neither extended, scaled nor shifted (R80, R82). -/
def decodeVariant (c : Byte) (i : Nat → Instr) : Except IllegalWord Instr :=
  if rsvField c = 0#2 then .ok (i (variantField c).toNat) else .error .reservedBits

/-- The decoder (R82). -/
def decode (c : Byte) : Except IllegalWord Instr :=
  match (opField c).toNat with
  | 0x0 => decodePlain c .nop
  | 0x1 => decodeVariant c .init
  | 0x2 => decodePlain c .pad
  | 0x3 => decodePlain c .parse
  | 0x4 => decodePlain c .expand
  | 0x5 => decodePlain c .round
  | 0x6 => decodePlain c .fold
  | 0x7 => decodePlain c .compress
  | 0x8 => decodePlain c .format
  | 0x9 => decodeVariant c .hash
  | _ => .error .reservedOp

/-- The operation number of a command (R79). -/
def opNumber : Instr → Nat
  | .nop => 0x0
  | .init _ => 0x1
  | .pad => 0x2
  | .parse => 0x3
  | .expand => 0x4
  | .round => 0x5
  | .fold => 0x6
  | .compress => 0x7
  | .format => 0x8
  | .hash _ => 0x9

/-- The value of the field `v`: the variant code of INIT and HASH, 00 for every other command (R77). -/
def operandBits : Instr → Nat
  | .init v => v
  | .hash v => v
  | .nop | .pad | .parse | .expand | .round | .fold | .compress | .format => 0

/-- The command word of a well-formed command: `op` in bits 7:4, 00 in bits 3:2, `v` in bits 1:0 (R77, R79). -/
def encode (i : Instr) : Byte := BitVec.ofNat 8 (16 * opNumber i + operandBits i % 4)

/-- The command that the decoder reads from the word `w` of `nbits` bits, numbered as the opcode table numbers them; none where the word is ILLEGAL.  A command is exactly 8 bits (R78), and a CMD write uses bits 7:0 (R53). -/
def decodeTableWord (nbits w : Nat) : Option Instr :=
  match decode (BitVec.ofNat 8 (w % 2 ^ nbits)) with
  | .ok i => some i
  | .error _ => none

end Sys2Proof
end

