-- ==== Sys2Proof/Machine/State.lean ====
section
/-! DEFINITION. The state of the core (R19), the host accesses that drive it (R47, R69), the model faults (R60) and refusals, and the state after reset (R44). -/

namespace Sys2Proof.Machine

/-- The two supported variants (R2).  VARIANT never stores the codes 10 and 11 (R33), so the register's type has no value for them. -/
inductive Variant where
  /-- Code 00, SHA-256, 32-bit words. -/
  | narrow
  /-- Code 01, SHA-512, 64-bit words. -/
  | wide
  deriving DecidableEq, Repr

/-- The values of PHASE (R27).  The value 7 is never written (I13), so the type excludes it. -/
inductive Phase where
  | idle
  | preprocess
  | parse
  | expandSchedule
  | compress
  | finalize
  | error
  deriving DecidableEq, Repr

/-- The values of ERR (R34, R165).  The codes 6 and 7 are never written (I13), so the type excludes them. -/
inductive ErrKind where
  /-- Code 0: no error. -/
  | noError
  /-- Code 1. -/
  | messageTooLong
  /-- Code 2. -/
  | invalidLength
  /-- Code 3. -/
  | unsupportedVariant
  /-- Code 4. -/
  | illegalCommand
  /-- Code 5. -/
  | sequenceError
  deriving DecidableEq, Repr

/-- The three byte address spaces of R47. -/
inductive ByteSpace where
  | msg
  | padbuf
  | digest
  deriving DecidableEq, Repr

/-- One event from outside the core: a host access, which names its space, its address and its width in bytes (R47), or the platform's reset (R183). -/
inductive HostEvent where
  /-- A read of the REG space at a byte offset. -/
  | regRead (offset width : Nat)
  /-- A write of the REG space at a byte offset. -/
  | regWrite (offset width : Nat) (value : Word)
  /-- A read of a byte space. -/
  | byteRead (space : ByteSpace) (addr width : Nat)
  /-- A write of a byte space. -/
  | byteWrite (space : ByteSpace) (addr width : Nat) (value : Byte)
  /-- Reset, asserted by the platform between two steps (R183). -/
  | reset
  deriving DecidableEq, Repr

/-- A byte memory: its listed cells, addresses strictly rising, none equal to what an unlisted cell reads as (`Memory.wf`). -/
abbrev Memory := List Host.Cell

/-- The state of the machine.  The first 17 fields are the architectural state of R19, one field for each register, register array and memory it names.  The last five are the model's own: the parameters MSG_CAP (R10) and K_256, K_512, H0_256, H0_512 (R97), and the host's side of the interface. -/
structure State where
  /-- PHASE (R27). -/
  phase : Phase
  /-- VARIANT (R33). -/
  variant : Variant
  /-- ERR (R34). -/
  err : ErrKind
  /-- DV, digest valid (R35). -/
  dv : Bool
  /-- BUSY (R36). -/
  busy : Bool
  /-- T, the round counter (R28). -/
  t : BitVec 7
  /-- BLKIDX, the block index (R29). -/
  blkidx : BitVec 64
  /-- NBLK, the block count (R30). -/
  nblk : BitVec 64
  /-- PADLEN, the length in bytes of the padded stream (R31). -/
  padlen : BitVec 64
  /-- MSGLEN, the message length in bytes (R32). -/
  msglen : BitVec 64
  /-- DLEN, the number of digest characters (R37). -/
  dlen : BitVec 8
  /-- H[0..7], the hash state (R21). -/
  h : Vector Word 8
  /-- WV[0..7], the working variables a..h (R22). -/
  wv : Vector Word 8
  /-- W[0..79], the schedule (R23). -/
  w : Vector Word 80
  /-- MSG (R41): a cell that is not listed is unwritten. -/
  msg : Memory
  /-- PADBUF (R42): a cell that is not listed holds an unspecified byte. -/
  padbuf : Memory
  /-- DIGEST (R43): a cell that is not listed holds 0x00. -/
  digest : Memory
  /-- MODEL'S OWN: MSG_CAP, the parameter of R10, at most 2^64 − 256.  No step changes it. -/
  msgCap : Fin (Config.msgCapMax + 1)
  /-- MODEL'S OWN: the parameters K_256, K_512, H0_256 and H0_512 of R97.  No step changes them. -/
  constants : Constants
  /-- MODEL'S OWN: the number of the free draw the access in hand may make (R57); every access advances it. -/
  draws : Nat
  /-- MODEL'S OWN: the host's pending events in issue order, oldest first (R69). -/
  host : List HostEvent
  /-- MODEL'S OWN: what the latest event returned to the host, none if it was not a read. -/
  rdata : Option Word
  deriving DecidableEq, Repr

/-- The model faults of R60: a host access or a command outside the host's duties (R193), to which the spec gives no meaning.  Each records the offending access or command.  All are SAFE: the machine stops where hardware might go on. -/
inductive Fault where
  /-- Raised by a REG access that is not 8 bytes wide or not 8-byte aligned (R48).  Safe. -/
  | regWidthOrAlignment (a : HostEvent)
  /-- Raised by a REG access at an unmapped offset (R51).  Safe. -/
  | regUnmapped (a : HostEvent)
  /-- Raised by a byte-space access that is not 1 byte wide (R49).  Safe. -/
  | byteWidth (a : HostEvent)
  /-- Raised by a byte-space access at an address outside the space (R49).  Safe. -/
  | byteOutside (a : HostEvent)
  /-- Raised by a host read of an unwritten MSG cell (R56).  Safe. -/
  | unwrittenRead (a : HostEvent)
  /-- Raised by PAD or HASH with MSGLEN > MSG_CAP (R126).  Safe. -/
  | messageOverCapacity (c : Instr)
  /-- Raised by PAD or HASH when a message byte is unwritten (R59, R126).  Safe. -/
  | unwrittenMessageByte (c : Instr)
  /-- Raised by PAD or HASH if the padder's post-construction check failed, which it cannot (R120, I3).  Safe. -/
  | paddedLengthCheck (c : Instr)
  /-- Raised by ROUND in a state with T > rounds, where W[T] and K[T] name no word of the block.  No run reaches such a state (R45 item 5).  Safe. -/
  | roundIndexOutOfRange (c : Instr)
  deriving DecidableEq, Repr

/-- What the model gives no meaning to. -/
inductive Refusal where
  /-- Raised by a command whose arm of `exec` has no meaning yet; no arm does.  Safe. -/
  | notModelled (mnemonic : String)
  /-- Raised by a host access other than a STATUS read while BUSY = 1, which is outside this model (R194, I18); BUSY is never 1 in a run (R36).  Safe. -/
  | accessWhileBusy (a : HostEvent)
  deriving DecidableEq, Repr

/-- The outcome of a step or of a command. -/
abbrev Res := Host.Outcome State Fault Refusal

/-- The state right after reset (R44) of a core with the given MSG_CAP and constants, the arguments of the model (R10, R97).  The host has nothing pending. -/
def State.resetWith (msgCap : Fin (Config.msgCapMax + 1)) (constants : Constants) : State where
  phase := .idle
  variant := .narrow
  err := .noError
  dv := false
  busy := false
  t := 0
  blkidx := 0
  nblk := 0
  padlen := 0
  msglen := 0
  dlen := 0
  h := Vector.replicate 8 0
  wv := Vector.replicate 8 0
  w := Vector.replicate 80 0
  msg := []
  padbuf := []
  digest := []
  msgCap := msgCap
  constants := constants
  draws := 0
  host := []
  rdata := none

/-- The state right after reset (R44): MSG_CAP is the open parameter of R10, whatever it is (assumption 2), and the constants have the default values of R97. -/
def State.reset : State := State.resetWith Config.msgCap defaultConstants

end Sys2Proof.Machine
end

