-- ==== Sys2Proof/Machine/Memory.lean ====
section
/-! DEFINITION. The byte memories of R47: one canonical form, reading and writing one cell, and the runs of cells that the primitives MemRead and MemWrite of R59 name. -/

namespace Sys2Proof.Machine

/-- What a cell that is not listed holds: MSG cells start unwritten (R41), PADBUF cells are unspecified (R42), DIGEST cells hold 0x00 (R43, R44). -/
def ByteSpace.background : ByteSpace → Option Byte
  | .msg => none
  | .padbuf => none
  | .digest => some 0

/-- The listed byte at an address. -/
def Memory.lookup (m : Memory) (a : Nat) : Option Byte :=
  match m with
  | [] => none
  | (k, b) :: rest => if k = a then some b else Memory.lookup rest a

/-- The byte at an address, over the background `bg` of the memory's space. -/
def Memory.read (bg : Option Byte) (m : Memory) (a : Nat) : Option Byte :=
  match Memory.lookup m a with
  | some b => some b
  | none => bg

/-- List a byte at an address, in address order. -/
def Memory.insert (m : Memory) (a : Nat) (b : Byte) : Memory :=
  match m with
  | [] => [(a, b)]
  | (k, c) :: rest =>
    if a < k then (a, b) :: (k, c) :: rest
    else if a = k then (a, b) :: rest
    else (k, c) :: Memory.insert rest a b

/-- Take an address off the list. -/
def Memory.erase (m : Memory) (a : Nat) : Memory := m.filter fun cell => decide (cell.1 ≠ a)

/-- Set the byte at an address.  Writing what an unlisted cell holds takes the address off the list, so equal memories are equal lists. -/
def Memory.write (bg : Option Byte) (m : Memory) (a : Nat) (b : Byte) : Memory :=
  if some b = bg then Memory.erase m a else Memory.insert m a b

/-- Set the bytes at `a`, `a+1`, … (the primitive MemWrite of R59). -/
def Memory.writeBytes (bg : Option Byte) (m : Memory) (a : Nat) (bytes : List Byte) : Memory :=
  match bytes with
  | [] => m
  | b :: rest => Memory.writeBytes bg (Memory.write bg m a b) (a + 1) rest

/-- The `n` bytes at `a`, `a+1`, … in address order, or none if one of the cells holds no byte (the primitive MemRead of R59). -/
def Memory.readBytes (bg : Option Byte) (m : Memory) (a n : Nat) : Option (List Byte) :=
  match n with
  | 0 => some []
  | n + 1 =>
    match Memory.read bg m a with
    | none => none
    | some b =>
      match Memory.readBytes bg m (a + 1) n with
      | none => none
      | some rest => some (b :: rest)

/-- Every address on the list is above `a`'s predecessor: the list starts at or above `a` and rises strictly. -/
def Memory.risingFrom (a : Nat) (m : Memory) : Bool :=
  match m with
  | [] => true
  | (k, _) :: rest => decide (a ≤ k) && Memory.risingFrom (k + 1) rest

/-- The canonical form of a memory: addresses strictly rising, no entry equal to the background. -/
def Memory.wf (bg : Option Byte) (m : Memory) : Bool :=
  Memory.risingFrom 0 m && m.all fun cell => decide (some cell.2 ≠ bg)

end Sys2Proof.Machine
end

