-- ==== Sys2Proof/Machine/Variants.lean ====
section
/-! DEFINITION. The two configuration records CFG[0] and CFG[1] (R91 to R95), the quantities derived from a record (R9), and the selection of a variant by its code (R103). -/

namespace Sys2Proof

/-- `WB`, the bytes of a word (R9). -/
def VariantConfig.wordBytes (cfg : VariantConfig) : Nat := cfg.wordBits / 8

/-- `BB`, the bytes of a block (R9). -/
def VariantConfig.blockBytes (cfg : VariantConfig) : Nat := cfg.blockBits / 8

/-- `LB`, the bytes of the length field (R9). -/
def VariantConfig.lengthFieldBytes (cfg : VariantConfig) : Nat := cfg.lengthFieldBits / 8

/-- `TB`, the byte residue at which the length field begins (R9). -/
def VariantConfig.targetBytes (cfg : VariantConfig) : Nat := cfg.paddingTargetBits / 8

/-- `DC`, the characters of a digest (R9). -/
def VariantConfig.digestChars (cfg : VariantConfig) : Nat := 8 * cfg.wordBits / 4

/-- `MAXBITS`, the largest message bit length that pads (R9). -/
def VariantConfig.maxBits (cfg : VariantConfig) : Nat := 2 ^ cfg.lengthFieldBits - 1

/-- `cfg.round_constants[i]`; it is used for i < rounds only (R140). -/
def VariantConfig.roundConstant (cfg : VariantConfig) (i : Nat) : Word := cfg.roundConstants.getD i 0

namespace Machine

/-- A word of the narrow variant in its 64-bit storage, upper half 0 (R24). -/
def storeNarrow (x : BitVec 32) : Word := x.setWidth 64

/-- CFG[0], the record of the narrow variant (R92, R93, R94, R97). -/
def cfgNarrow (c : Constants) : VariantConfig where
  wordBits := 32
  blockBits := 512
  rounds := 64
  lengthFieldBits := 64
  paddingTargetBits := 448
  roundConstants := c.k256.toList.map storeNarrow
  initialState := c.h0Narrow.map storeNarrow
  sched0 := ⟨7, 18, 3⟩
  sched1 := ⟨17, 19, 10⟩
  comp0 := ⟨6, 11, 25⟩
  comp1 := ⟨2, 13, 22⟩

/-- CFG[1], the record of the wide variant (R92, R93, R94, R97). -/
def cfgWide (c : Constants) : VariantConfig where
  wordBits := 64
  blockBits := 1024
  rounds := 80
  lengthFieldBits := 128
  paddingTargetBits := 896
  roundConstants := c.k512.toList
  initialState := c.h0Wide
  sched0 := ⟨1, 8, 7⟩
  sched1 := ⟨19, 61, 6⟩
  comp0 := ⟨14, 18, 41⟩
  comp1 := ⟨28, 34, 39⟩

/-- `CFG[v]` with the constants `c` (R20, R91, R97). -/
def Variant.cfg (v : Variant) (c : Constants) : VariantConfig :=
  match v with
  | .narrow => cfgNarrow c
  | .wide => cfgWide c

/-- The 2-bit code of a variant in VARIANT and STATUS (R33, R80). -/
def Variant.code : Variant → Nat
  | .narrow => 0
  | .wide => 1

/-- Variant selection (R103): none where the code has no VariantConfig, which raises UnsupportedVariant. -/
def select (v : Nat) : Option Variant :=
  if v = 0 then some .narrow
  else if v = 1 then some .wide
  else none

/-- The variant a name selects (R90): only the source's two names have a record. -/
def selectName (name : String) : Option Variant :=
  if name = "SHA-256" then some .narrow
  else if name = "SHA-512" then some .wide
  else none

end Machine

end Sys2Proof
end

