-- ==== Sys2Proof/Machine/Arith.lean ====
section
/-! DEFINITION. Word arithmetic and the six mixing functions (file 41, R105 to R116).  A word of `w` bits is held in 64-bit storage; each operation computes the exact natural number of its rule and narrows once. -/

namespace Sys2Proof.Machine

/-- `x ⊞ y = (x + y) mod 2^w` (R106). -/
def addW (w : Nat) (x y : Word) : Word := BitVec.ofNat 64 ((x.toNat + y.toNat) % 2 ^ w)

/-- A sum of several operands: the exact sum reduced once (R106). -/
def sumW (w : Nat) (xs : List Word) : Word := BitVec.ofNat 64 ((xs.map BitVec.toNat).sum % 2 ^ w)

/-- `rotr(x, n)` within `w` bits, for n < w (R107). -/
def rotr (w : Nat) (x : Word) (n : Nat) : Word :=
  BitVec.ofNat 64 (((x.toNat >>> n) ||| (x.toNat <<< (w - n))) % 2 ^ w)

/-- `x >> n`, the logical shift right (R108). -/
def shr (x : Word) (n : Nat) : Word := BitVec.ofNat 64 (x.toNat / 2 ^ n)

/-- `not x = x xor (2^w − 1)`, the complement within `w` bits (R109). -/
def notW (w : Nat) (x : Word) : Word := x ^^^ BitVec.ofNat 64 (2 ^ w - 1)

/-- σ0, with the first schedule triple: two rotations and a shift (R110). -/
def sigma0 (cfg : VariantConfig) (x : Word) : Word :=
  rotr cfg.wordBits x cfg.sched0.a ^^^ rotr cfg.wordBits x cfg.sched0.b ^^^ shr x cfg.sched0.c

/-- σ1, with the second schedule triple: two rotations and a shift (R111). -/
def sigma1 (cfg : VariantConfig) (x : Word) : Word :=
  rotr cfg.wordBits x cfg.sched1.a ^^^ rotr cfg.wordBits x cfg.sched1.b ^^^ shr x cfg.sched1.c

/-- Σ1, with the FIRST compression triple (R16, R112). -/
def bigSigma1 (cfg : VariantConfig) (x : Word) : Word :=
  rotr cfg.wordBits x cfg.comp0.a ^^^ rotr cfg.wordBits x cfg.comp0.b ^^^ rotr cfg.wordBits x cfg.comp0.c

/-- Σ0, with the SECOND compression triple (R16, R113). -/
def bigSigma0 (cfg : VariantConfig) (x : Word) : Word :=
  rotr cfg.wordBits x cfg.comp1.a ^^^ rotr cfg.wordBits x cfg.comp1.b ^^^ rotr cfg.wordBits x cfg.comp1.c

/-- `Ch(e, f, g) = (e and f) xor ((not e) and g)` (R114). -/
def ch (w : Nat) (e f g : Word) : Word := (e &&& f) ^^^ (notW w e &&& g)

/-- `Maj(a, b, c) = (a and b) xor (a and c) xor (b and c)` (R115). -/
def maj (a b c : Word) : Word := (a &&& b) ^^^ (a &&& c) ^^^ (b &&& c)

end Sys2Proof.Machine
end

