-- ==== Sys2Proof/Machine/Encoding.lean ====
section
/-! DEFINITION. Data encodings (R61 to R64, R87 to R89): big-endian integers, the bit order of a byte, and the hexadecimal digits of the digest. -/

namespace Sys2Proof.Machine

/-- `be_N(s)`, the unsigned integer whose big-endian encoding is `s` (R87). -/
def beNat (s : List Byte) : Nat := s.foldl (fun acc b => 256 * acc + b.toNat) 0

/-- `to_be_N(x)`, the N-byte big-endian encoding of `x` (R87). -/
def toBE (n x : Nat) : List Byte :=
  (List.range n).map fun k => BitVec.ofNat 8 (x / 2 ^ (8 * (n - 1 - k)))

/-- The eight bits of a byte in stream order, bit 7 first (R61). -/
def byteBits (b : Byte) : List Bool := (List.range 8).map fun k => b.getLsbD (7 - k)

/-- The bits of a byte string in stream order (R61, R88). -/
def bitsMsbFirst (bytes : List Byte) : List Bool := bytes.flatMap byteBits

/-- The byte whose bits, bit 7 first, are the next eight of the stream (R88). -/
def byteOfBits (bits : List Bool) : Byte :=
  BitVec.ofNat 8 (bits.foldl (fun acc x => 2 * acc + x.toNat) 0)

/-- The first `n` bytes of a bit stream: stream bits 8k..8k+7 form byte k (R88). -/
def bytesOfBits (n : Nat) (bits : List Bool) : List Byte :=
  (List.range n).map fun k => byteOfBits ((bits.drop (8 * k)).take 8)

/-- The ASCII code of the lowercase hexadecimal digit of a 4-bit value (R89). -/
def hexChar (d : Nat) : Byte := if d ≤ 9 then BitVec.ofNat 8 (0x30 + d) else BitVec.ofNat 8 (0x61 + (d - 10))

/-- One state word as fixed-width lowercase hex, `w/4` digits, the most significant first (R64, R149). -/
def wordHex (w : Nat) (x : Word) : List Byte :=
  (List.range (w / 4)).map fun k => hexChar (x.toNat / 2 ^ (4 * (w / 4 - 1 - k)) % 16)

/-- `format(state, cfg)`: the eight words in hex, H[0] first, with no separators and no prefix (R149). -/
def formatDigest (cfg : VariantConfig) (state : Vector Word 8) : List Byte :=
  state.toList.flatMap (wordHex cfg.wordBits)

end Sys2Proof.Machine
end

