-- ==== Sys2Proof/Machine/Operands.lean ====
section
/-! DEFINITION. The implicit operands of the commands (R81): the selected record, the message in MSG, and the current block in PADBUF. -/

namespace Sys2Proof.Machine

/-- `cfg`, the record of the selected variant (R20). -/
def State.cfg (s : State) : VariantConfig := s.variant.cfg s.constants

/-- PAD_CAP, the capacity of PADBUF (R10). -/
def State.padCap (s : State) : Nat := s.msgCap.val + Config.padSlack

/-- The number of cells of a byte space (R47). -/
def State.spaceSize (s : State) : ByteSpace → Nat
  | .msg => s.msgCap.val
  | .padbuf => s.padCap
  | .digest => 128

/-- The message, MSG[0..MSGLEN−1], or none if one of its cells is unwritten (R41, R59). -/
def State.message (s : State) : Option (List Byte) :=
  Memory.readBytes ByteSpace.msg.background s.msg 0 s.msglen.toNat

/-- The byte that PADBUF gives at an address: PADBUF[a] if a < PADLEN, else an unspecified byte (R42, R57). -/
def State.padCell (s : State) (a : Nat) : Byte :=
  if a < s.padlen.toNat then
    match Memory.read ByteSpace.padbuf.background s.padbuf a with
    | some b => b
    | none => Config.padDraw s.draws a
  else Config.padDraw s.draws a

/-- Block BLKIDX of the padded stream, `PADBUF[BLKIDX × BB .. BLKIDX × BB + BB − 1]` (R130, R138). -/
def State.currentBlock (s : State) : List Byte :=
  (List.range s.cfg.blockBytes).map fun k => s.padCell (s.blkidx.toNat * s.cfg.blockBytes + k)

/-- The schedule as a sequence, W[0], W[1], … (R23). -/
def State.schedule (s : State) : List Word := s.w.toList

end Sys2Proof.Machine
end

