-- ==== Sys2Proof/Machine/Flags.lean ====
section
/-! DEFINITION. The status flags of the core (R40) and the STATUS view they are read through (R38). -/

namespace Sys2Proof.Machine

/-- The 3-bit code of a phase (R27). -/
def Phase.code : Phase → Nat
  | .idle => 0
  | .preprocess => 1
  | .parse => 2
  | .expandSchedule => 3
  | .compress => 4
  | .finalize => 5
  | .error => 6

/-- The 3-bit code of an error (R165). -/
def ErrKind.code : ErrKind → Nat
  | .noError => 0
  | .messageTooLong => 1
  | .invalidLength => 2
  | .unsupportedVariant => 3
  | .illegalCommand => 4
  | .sequenceError => 5

/-- STATUS: PHASE in bits 2:0, DV in bit 3, VARIANT in bits 5:4, BUSY in bit 7, ERR in bits 10:8; bit 6 and bits 63:11 read 0 (R38). -/
def State.status (s : State) : Word :=
  BitVec.ofNat 64
    (s.phase.code ||| s.dv.toNat <<< 3 ||| s.variant.code <<< 4 ||| s.busy.toNat <<< 7 ||| s.err.code <<< 8)

/-- DV after FORMAT: 1 only in FINALIZE (R35, R158). -/
def State.dvAfterFormat (s : State) : Bool := decide (s.phase = .finalize)

end Sys2Proof.Machine
end

