-- ==== Sys2Proof/Machine/Ops.lean ====
section
/-! DEFINITION. The operations that the commands share: raising an error (R168), leaving ERROR by starting a run (R157, R172), the legality table and the phase check of a command (R151, R152), the digest memory (R43), and the entry into FINALIZE (R153). -/

namespace Sys2Proof.Machine

/-- Write all 128 cells of DIGEST (R43). -/
def State.writeDigest (s : State) (bytes : List Byte) : Memory :=
  Memory.writeBytes ByteSpace.digest.background s.digest 0 bytes

/-- 128 cells of 0x00: what INIT and every error write into DIGEST (R43). -/
def blankDigest : List Byte := List.replicate 128 0

/-- `raise E` (R168): the code, phase ERROR, and no digest; no other state changes. -/
def raiseError (e : ErrKind) (s : State) : State :=
  { s with
    err := e
    phase := .error
    digest := s.writeDigest blankDigest
    dlen := 0
    dv := false }

/-- What INIT writes for a supported variant (R157).  It is the way out of ERROR (R172): there is no other return from an error. -/
def beginRun (v : Variant) (s : State) : State :=
  { s with
    variant := v
    h := (v.cfg s.constants).initialState
    wv := Vector.replicate 8 0
    w := Vector.replicate 80 0
    t := 0
    blkidx := 0
    nblk := 0
    padlen := 0
    digest := s.writeDigest blankDigest
    dlen := 0
    dv := false
    err := .noError
    phase := .preprocess }

/-- The 128 bytes of DIGEST that show the hash state: its characters, then 0x00 (R153, R158). -/
def State.digestImage (s : State) : List Byte :=
  formatDigest s.cfg s.h ++ List.replicate (128 - s.cfg.digestChars) 0

/-- Write the characters of the hash state into DIGEST, with DLEN and DV (R153, R158). -/
def showDigest (valid : Bool) (s : State) : State :=
  { s with
    digest := s.writeDigest s.digestImage
    dlen := BitVec.ofNat 8 s.cfg.digestChars
    dv := valid }

/-- The entry into FINALIZE (R153). -/
def finalize (s : State) : State := { showDigest true s with phase := .finalize }

/-- The legality table of R152, for the phases other than ERROR. -/
def State.legal (s : State) : Instr → Bool
  | .nop => true
  | .init _ => true
  | .pad => decide (s.phase = .preprocess)
  | .parse => decide (s.phase = .parse)
  | .expand => decide (s.phase = .expandSchedule)
  | .round => decide (s.phase = .compress ∧ s.t.toNat ≠ s.cfg.rounds)
  | .fold => decide (s.phase = .compress ∧ s.t.toNat = s.cfg.rounds)
  | .compress => decide (s.phase = .compress)
  | .format => decide (s.phase ≠ .idle)
  | .hash _ => true

/-- Steps 2, 4 and 5 of the dispatch of R151 for a command that ERROR drops: the drop (R170), the phase check, the body. -/
def gated (i : Instr) (body : State → Res) (s : State) : Res :=
  if s.phase = .error then .next s
  else if s.legal i then body s
  else .next (raiseError .sequenceError s)

/-- The next part of HASH, unless the part before it raised or stopped (R159). -/
def andThen (r : Res) (next : State → Res) : Res :=
  match r with
  | .next s => if s.phase = .error then .next s else next s
  | .fault f => .fault f
  | .refused f => .refused f

end Sys2Proof.Machine
end

