-- ==== Sys2Proof/Machine/Expander.lean ====
section
/-! DEFINITION. The Schedule Expander (file 44): the function `expand` (R134, R135) and the command EXPAND (R138). -/

namespace Sys2Proof.Machine

/-- Word `i` of a block, big-endian (R62, R134). -/
def blockWord (cfg : VariantConfig) (block : List Byte) (i : Nat) : Word :=
  BitVec.ofNat 64 (beNat ((block.drop (i * cfg.wordBytes)).take cfg.wordBytes))

/-- The first 16 words of the schedule (R134). -/
def leadingWords (cfg : VariantConfig) (block : List Byte) : List Word :=
  (List.range 16).map (blockWord cfg block)

/-- The recurrence of R135 for the word that follows `ws`, the schedule so far: with i the length of `ws`, `(W[i-16] + σ0(W[i-15]) + W[i-7] + σ1(W[i-2])) mod 2^w`. -/
def nextWord (cfg : VariantConfig) (ws : List Word) : Word :=
  sumW cfg.wordBits
    [ws.getD (ws.length - 16) 0, sigma0 cfg (ws.getD (ws.length - 15) 0),
     ws.getD (ws.length - 7) 0, sigma1 cfg (ws.getD (ws.length - 2) 0)]

/-- Extend a schedule by `n` words, in increasing index order (R135, R136). -/
def extendSchedule (cfg : VariantConfig) (n : Nat) (ws : List Word) : List Word :=
  match n with
  | 0 => ws
  | n + 1 => extendSchedule cfg n (ws ++ [nextWord cfg ws])

/-- `expand(block, cfg)`, the `rounds` words of a block's schedule (R134, R135, R137). -/
def expand (cfg : VariantConfig) (block : List Byte) : List Word :=
  extendSchedule cfg (cfg.rounds - 16) (leadingWords cfg block)

/-- W[0..79] as EXPAND writes it: the schedule, then 0 from index `rounds` on (R23, R138). -/
def scheduleRegisters (schedule : List Word) : Vector Word 80 :=
  Vector.ofFn fun i => schedule.getD i.val 0

/-- EXPAND's body: the schedule of block BLKIDX, the working variables from H, and T = 0 (R138). -/
def expandBody (s : State) : Res :=
  .next { s with
    w := scheduleRegisters (expand s.cfg s.currentBlock)
    wv := s.h
    t := 0
    phase := .compress }

/-- EXPAND (R138). -/
def execExpand (s : State) : Res := gated .expand expandBody s

end Sys2Proof.Machine
end

