-- ==== Sys2Proof/Machine/Compressor.lean ====
section
/-! DEFINITION. The Compression Engine (file 45): the functions `compress_round` (R140) and `compress_block` (R142), and the commands ROUND, FOLD and COMPRESS (R144 to R146). -/

namespace Sys2Proof.Machine

/-- `temp1 = (h + Σ1(e) + Ch(e, f, g) + k_i + w_i) mod 2^w` (R140), with the working variables a..h = WV[0..7] (R22). -/
def temp1 (cfg : VariantConfig) (wv : Vector Word 8) (wi ki : Word) : Word :=
  sumW cfg.wordBits [wv[7], bigSigma1 cfg wv[4], ch cfg.wordBits wv[4] wv[5] wv[6], ki, wi]

/-- `temp2 = (Σ0(a) + Maj(a, b, c)) mod 2^w` (R140). -/
def temp2 (cfg : VariantConfig) (wv : Vector Word 8) : Word :=
  addW cfg.wordBits (bigSigma0 cfg wv[0]) (maj wv[0] wv[1] wv[2])

/-- `compress_round`, which depends on the round index only through `w_i` and `k_i` (R140, R141). -/
def compressRound (cfg : VariantConfig) (wv : Vector Word 8) (wi ki : Word) : Vector Word 8 :=
  #v[addW cfg.wordBits (temp1 cfg wv wi ki) (temp2 cfg wv), wv[0], wv[1], wv[2],
     addW cfg.wordBits wv[3] (temp1 cfg wv wi ki), wv[4], wv[5], wv[6]]

/-- Rounds `i`, `i+1`, …, `i+n−1` in strict order over a schedule (R142, R143). -/
def runRounds (cfg : VariantConfig) (schedule : List Word) (n i : Nat) (wv : Vector Word 8) : Vector Word 8 :=
  match n with
  | 0 => wv
  | n + 1 =>
    runRounds cfg schedule n (i + 1) (compressRound cfg wv (schedule.getD i 0) (cfg.roundConstant i))

/-- The fold, `state'[j] = (state[j] + working[j]) mod 2^w` (R142). -/
def foldWords (cfg : VariantConfig) (state wv : Vector Word 8) : Vector Word 8 :=
  Vector.zipWith (addW cfg.wordBits) state wv

/-- `compress_block(block, state, cfg)` (R142). -/
def compressBlock (cfg : VariantConfig) (block : List Byte) (state : Vector Word 8) : Vector Word 8 :=
  foldWords cfg state (runRounds cfg (expand cfg block) cfg.rounds 0 state)

/-- Round T on the registers (R144). -/
def roundStep (s : State) : State :=
  { s with
    wv := compressRound s.cfg s.wv (s.schedule.getD s.t.toNat 0) (s.cfg.roundConstant s.t.toNat)
    t := s.t + 1 }

/-- ROUND's body (R144).  Past the last round no W[T] and K[T] exist: a stop that no run reaches (assumption 7). -/
def roundBody (s : State) : Res :=
  if s.cfg.rounds < s.t.toNat then .fault (.roundIndexOutOfRange .round)
  else .next (roundStep s)

/-- ROUND (R144). -/
def execRound (s : State) : Res := gated .round roundBody s

/-- H and BLKIDX after the fold of the current block (R145). -/
def mergeBlock (s : State) : State :=
  { s with h := foldWords s.cfg s.h s.wv, blkidx := s.blkidx + 1 }

/-- FOLD's body: the fold, then the next block or the entry into FINALIZE; the comparison of the block numbers is of natural numbers (R116, R145, R152). -/
def foldBody (s : State) : Res :=
  if s.blkidx.toNat + 1 < s.nblk.toNat then .next { mergeBlock s with phase := .expandSchedule }
  else .next (finalize (mergeBlock s))

/-- FOLD (R145). -/
def execFold (s : State) : Res := gated .fold foldBody s

/-- The remaining rounds of the current block on the registers (R146). -/
def finishRounds (s : State) : State :=
  { s with
    wv := runRounds s.cfg s.schedule (s.cfg.rounds - s.t.toNat) s.t.toNat s.wv
    t := BitVec.ofNat 7 s.cfg.rounds }

/-- COMPRESS's body: the remaining rounds, then FOLD's body (R146). -/
def compressBody (s : State) : Res := foldBody (finishRounds s)

/-- COMPRESS (R146). -/
def execCompress (s : State) : Res := gated .compress compressBody s

end Sys2Proof.Machine
end

