-- ==== Sys2Proof/Machine/Padder.lean ====
section
/-! DEFINITION. The Padder (file 42): the function `pad` on bits (R117) and on bytes (R121), and the command PAD (R126). -/

namespace Sys2Proof.Machine

/-- The number of zero bits after the `1` bit, `(padding_target_bits − len) mod block_bits` for the length `len` that includes the `1` bit (R117, R118). -/
def zeroGap (cfg : VariantConfig) (len : Nat) : Nat :=
  (((cfg.paddingTargetBits : Int) - (len : Int)) % (cfg.blockBits : Int)).toNat

/-- The message's bit length does not fit in the length field (R119). -/
def tooLong (cfg : VariantConfig) (len : Nat) : Bool := decide (2 ^ cfg.lengthFieldBits ≤ 8 * len)

/-- `pad(message, cfg)` as a bit string, or MessageTooLong (R117, R119). -/
def padBits (cfg : VariantConfig) (message : List Byte) : Except ErrKind (List Bool) :=
  if tooLong cfg message.length then .error .messageTooLong
  else
    .ok (bitsMsbFirst message ++ [true] ++
      List.replicate (zeroGap cfg (8 * message.length + 1)) false ++
      bitsMsbFirst (toBE cfg.lengthFieldBytes (8 * message.length)))

/-- `z = (TB − 1 − L) mod BB`, the number of zero bytes after 0x80 (R121). -/
def zeroBytes (cfg : VariantConfig) (len : Nat) : Nat :=
  (((cfg.targetBytes : Int) - 1 - (len : Int)) % (cfg.blockBytes : Int)).toNat

/-- `pad_bytes(m) = m ‖ 0x80 ‖ 0x00^z ‖ to_be_LB(8L)` (R121). -/
def padBytes (cfg : VariantConfig) (message : List Byte) : List Byte :=
  message ++ [0x80] ++ List.replicate (zeroBytes cfg message.length) 0 ++
    toBE cfg.lengthFieldBytes (8 * message.length)

/-- The end of PAD's body: the post-construction check (R120), then PADBUF, PADLEN and PHASE (R126). -/
def storePadded (c : Instr) (p : List Byte) (s : State) : Res :=
  if p.length % s.cfg.blockBytes ≠ 0 then .fault (.paddedLengthCheck c)
  else
    .next { s with
      padbuf := Memory.writeBytes ByteSpace.padbuf.background s.padbuf 0 p
      padlen := BitVec.ofNat 64 p.length
      phase := .parse }

/-- PAD's body, performed for the command `c`, PAD or HASH: MessageTooLong is checked before the model faults (R126, R171). -/
def padBody (c : Instr) (s : State) : Res :=
  if tooLong s.cfg s.msglen.toNat then .next (raiseError .messageTooLong s)
  else if s.msgCap.val < s.msglen.toNat then .fault (.messageOverCapacity c)
  else
    match s.message with
    | none => .fault (.unwrittenMessageByte c)
    | some m => storePadded c (padBytes s.cfg m) s

/-- PAD (R126). -/
def execPad (s : State) : Res := gated .pad (padBody .pad) s

end Sys2Proof.Machine
end

