-- ==== Sys2Proof/Machine/Parser.lean ====
section
/-! DEFINITION. The Block Parser (file 43): the function `parse_blocks` (R128) and the command PARSE (R132). -/

namespace Sys2Proof.Machine

/-- `parse_blocks(padded, cfg)`: the non-overlapping chunks of `block_bits` bits in stream order, or InvalidLength (R128, R129). -/
def parseBlocks (cfg : VariantConfig) (padded : List Bool) : Except ErrKind (List (List Bool)) :=
  if padded.length % cfg.blockBits ≠ 0 then .error .invalidLength
  else
    .ok ((List.range (padded.length / cfg.blockBits)).map fun k =>
      (padded.drop (k * cfg.blockBits)).take cfg.blockBits)

/-- The block count of the padded stream in PADBUF, `(8 × PADLEN) / block_bits` (R132). -/
def State.blockCount (s : State) : Nat := 8 * s.padlen.toNat / s.cfg.blockBits

/-- NBLK and BLKIDX as PARSE writes them (R132). -/
def setBlockCount (s : State) : State := { s with nblk := BitVec.ofNat 64 s.blockCount, blkidx := 0 }

/-- PARSE's body: the defensive length check, the block count, and the next phase (R132). -/
def parseBody (s : State) : Res :=
  if 8 * s.padlen.toNat % s.cfg.blockBits ≠ 0 then .next (raiseError .invalidLength s)
  else if s.blockCount = 0 then .next (finalize (setBlockCount s))
  else .next { setBlockCount s with phase := .expandSchedule }

/-- PARSE (R132). -/
def execParse (s : State) : Res := gated .parse parseBody s

end Sys2Proof.Machine
end

