-- ==== Sys2Proof/Machine/Chain.lean ====
section
/-! DEFINITION. The Chain Controller (file 46): the function `hash` (R148) and the commands NOP, INIT, FORMAT and HASH (R156 to R159). -/

namespace Sys2Proof.Machine

/-- Compress blocks in order, carrying the state forward (R131, R148, R162). -/
def chainBlocks (cfg : VariantConfig) (blocks : List (List Byte)) (state : Vector Word 8) : Vector Word 8 :=
  blocks.foldl (fun h block => compressBlock cfg block h) state

/-- `hash(message, cfg)`: pad, parse, chain the blocks from the initial state, format (R148). -/
def hashMessage (cfg : VariantConfig) (message : List Byte) : Except ErrKind (List Byte) :=
  match padBits cfg message with
  | .error e => .error e
  | .ok padded =>
    match parseBlocks cfg padded with
    | .error e => .error e
    | .ok blocks =>
      .ok (formatDigest cfg
        (chainBlocks cfg (blocks.map (bytesOfBits cfg.blockBytes)) cfg.initialState))

/-- NOP (R156). -/
def execNop (s : State) : Res := .next s

/-- What INIT does, in every phase (R157): UnsupportedVariant changes nothing but what a raise does, and VARIANT keeps its value. -/
def initBody (v : Nat) (s : State) : Res :=
  match select v with
  | some x => .next (beginRun x s)
  | none => .next (raiseError .unsupportedVariant s)

/-- INIT v (R157). -/
def execInit (v : Nat) (s : State) : Res := initBody v s

/-- FORMAT's body: it does not change PHASE (R158). -/
def formatBody (s : State) : Res := .next (showDigest s.dvAfterFormat s)

/-- FORMAT (R158). -/
def execFormat (s : State) : Res := gated .format formatBody s

/-- One block of HASH's loop: EXPAND, then COMPRESS (R159). -/
def hashBlock (s : State) : Res := andThen (gated .expand expandBody s) (gated .compress compressBody)

/-- HASH's loop `while PHASE == EXPAND_SCHEDULE`, at most `n` times (R159). -/
def hashLoop (n : Nat) (s : State) : Res :=
  match n with
  | 0 => .next s
  | n + 1 => if s.phase = .expandSchedule then andThen (hashBlock s) (hashLoop n) else .next s

/-- HASH after INIT: PAD, PARSE, and the loop, which runs NBLK times (R159). -/
def hashRun (c : Instr) (s : State) : Res :=
  andThen (andThen (gated .pad (padBody c) s) (gated .parse parseBody)) fun s =>
    hashLoop s.nblk.toNat s

/-- HASH v (R159). -/
def execHash (v : Nat) (s : State) : Res := andThen (initBody v s) (hashRun (.hash v))

end Sys2Proof.Machine
end

