-- ==== Sys2Proof/Machine/Dispatch.lean ====
section
/-! DEFINITION. One arm per command (R151 step 5, and step 4 inside each meaning). -/

namespace Sys2Proof.Machine

def exec (i : Instr) (s : State) : Host.Outcome State Fault Refusal :=
  match i with
  | .nop => Sys2Proof.Machine.execNop s
  | .init v => Sys2Proof.Machine.execInit v s
  | .pad => Sys2Proof.Machine.execPad s
  | .parse => Sys2Proof.Machine.execParse s
  | .expand => Sys2Proof.Machine.execExpand s
  | .round => Sys2Proof.Machine.execRound s
  | .fold => Sys2Proof.Machine.execFold s
  | .compress => Sys2Proof.Machine.execCompress s
  | .format => Sys2Proof.Machine.execFormat s
  | .hash v => Sys2Proof.Machine.execHash v s

end Sys2Proof.Machine
end

