-- ==== Sys2Proof/Machine/RegMap.lean ====
section
/-! DEFINITION. The register map of the REG space (R50): which register an offset names, and what a host read of it returns (R55). -/

namespace Sys2Proof.Machine

/-- The registers of the REG space (R50). -/
inductive Reg where
  | cmd
  | status
  | msglen
  | padlen
  | nblk
  | blkidx
  | t
  | dlen
  | h (j : Fin 8)
  | wv (j : Fin 8)
  | w (i : Fin 80)
  deriving DecidableEq, Repr

/-- The byte offset of a register (R50). -/
def Reg.offset : Reg → Nat
  | .cmd => 0x000
  | .status => 0x008
  | .msglen => 0x010
  | .padlen => 0x018
  | .nblk => 0x020
  | .blkidx => 0x028
  | .t => 0x030
  | .dlen => 0x038
  | .h j => 0x040 + 8 * j.val
  | .wv j => 0x080 + 8 * j.val
  | .w i => 0x100 + 8 * i.val

/-- The register that the 8-byte slot number `k` holds, none where the slot is unmapped: offsets 0x0C0..0x0F8, 0x380..0x3F8, and everything beyond the space (R47, R50). -/
def regAtSlot (k : Nat) : Option Reg :=
  if k = 0 then some .cmd
  else if k = 1 then some .status
  else if k = 2 then some .msglen
  else if k = 3 then some .padlen
  else if k = 4 then some .nblk
  else if k = 5 then some .blkidx
  else if k = 6 then some .t
  else if k = 7 then some .dlen
  else if k < 16 then some (.h (Fin.ofNat 8 (k - 8)))
  else if k < 24 then some (.wv (Fin.ofNat 8 (k - 16)))
  else if k < 32 then none
  else if k < 112 then some (.w (Fin.ofNat 80 (k - 32)))
  else none

/-- What a host read of a register returns, zero-extended to 64 bits; CMD stores nothing and reads 0 (R39, R50, R55). -/
def State.readReg (s : State) : Reg → Word
  | .cmd => 0
  | .status => s.status
  | .msglen => s.msglen
  | .padlen => s.padlen
  | .nblk => s.nblk
  | .blkidx => s.blkidx
  | .t => BitVec.setWidth 64 s.t
  | .dlen => BitVec.setWidth 64 s.dlen
  | .h j => s.h[j]
  | .wv j => s.wv[j]
  | .w i => s.w[i]

end Sys2Proof.Machine
end

