-- ==== Sys2Proof/Machine/Access.lean ====
section
/-! DEFINITION. The host's side of the interface: issuing a command through CMD (R53, R151), register accesses (R48 to R55), byte accesses (R49, R56 to R58), and the reset event (R183). -/

namespace Sys2Proof.Machine

/-- Step 3 of the dispatch of R151 for an ILLEGAL word: dropped in ERROR (R170), else IllegalCommand (R83). -/
def illegalWord (s : State) : Res :=
  if s.phase = .error then .next s else .next (raiseError .illegalCommand s)

/-- Perform a command word (R151). -/
def issueCommand (c : Byte) (s : State) : Res :=
  match decode c with
  | .ok i => exec i s
  | .error _ => illegalWord s

/-- The event returns a value to the host and changes no state of the core (R55, R71). -/
def reply (x : Word) (s : State) : Res := .next { s with rdata := some x }

/-- What an access that moves a REG register must meet: 8 bytes, 8-byte aligned (R48). -/
def regAligned (offset width : Nat) : Bool := decide (width = 8 ∧ offset % 8 = 0)

/-- A host read of the REG space (R48, R51, R55). -/
def readRegister (offset width : Nat) (s : State) : Res :=
  if regAligned offset width then
    match regAtSlot (offset / 8) with
    | some r => reply (s.readReg r) s
    | none => .fault (.regUnmapped (.regRead offset width))
  else .fault (.regWidthOrAlignment (.regRead offset width))

/-- A write of a mapped register: CMD runs the command in bits 7:0 (R53), MSGLEN stores the value (R54), every other register ignores it (R52). -/
def storeRegister (r : Reg) (x : Word) (s : State) : Res :=
  match r with
  | .cmd => issueCommand (BitVec.setWidth 8 x) s
  | .msglen => .next { s with msglen := x }
  | .status | .padlen | .nblk | .blkidx | .t | .dlen | .h _ | .wv _ | .w _ => .next s

/-- A host write of the REG space (R48, R51 to R54). -/
def writeRegister (offset width : Nat) (x : Word) (s : State) : Res :=
  if regAligned offset width then
    match regAtSlot (offset / 8) with
    | some r => storeRegister r x s
    | none => .fault (.regUnmapped (.regWrite offset width x))
  else .fault (.regWidthOrAlignment (.regWrite offset width x))

/-- The checks of a byte access, which its event `a` makes: 1 byte wide, inside the space (R49). -/
def byteChecked (a : HostEvent) (space : ByteSpace) (addr width : Nat) (body : State → Res) (s : State) : Res :=
  if width ≠ 1 then .fault (.byteWidth a)
  else if s.spaceSize space ≤ addr then .fault (.byteOutside a)
  else body s

/-- A read inside a byte space: an unwritten MSG cell is a model fault (R56), a PADBUF cell at or above PADLEN gives an unspecified byte (R57). -/
def loadByte (space : ByteSpace) (addr width : Nat) (s : State) : Res :=
  match space with
  | .msg =>
    match Memory.read ByteSpace.msg.background s.msg addr with
    | some b => reply (BitVec.setWidth 64 b) s
    | none => .fault (.unwrittenRead (.byteRead .msg addr width))
  | .padbuf => reply (BitVec.setWidth 64 (s.padCell addr)) s
  | .digest => reply (BitVec.setWidth 64 ((Memory.read ByteSpace.digest.background s.digest addr).getD 0)) s

/-- A write inside a byte space: MSG stores the byte in every phase (R56), PADBUF and DIGEST ignore it (R52). -/
def storeByte (space : ByteSpace) (addr : Nat) (b : Byte) (s : State) : Res :=
  match space with
  | .msg => .next { s with msg := Memory.write ByteSpace.msg.background s.msg addr b }
  | .padbuf | .digest => .next s

/-- Reset (R183): every register and memory of R19 takes the value of R44.  MSG_CAP and the constants are fixed, and the host keeps what it has still to do (assumption 12). -/
def resetCore (s : State) : State :=
  { State.resetWith s.msgCap s.constants with draws := s.draws, host := s.host, rdata := s.rdata }

/-- What may happen while BUSY = 1: reset, and a read of STATUS (R194). -/
def HostEvent.allowedWhileBusy : HostEvent → Bool
  | .regRead offset width => decide (offset = 0x008 ∧ width = 8)
  | .reset => true
  | .regWrite _ _ _ => false
  | .byteRead _ _ _ => false
  | .byteWrite _ _ _ _ => false

/-- One event, outside the BUSY duty. -/
def performEvent (a : HostEvent) (s : State) : Res :=
  match a with
  | .regRead offset width => readRegister offset width s
  | .regWrite offset width x => writeRegister offset width x s
  | .byteRead space addr width => byteChecked a space addr width (loadByte space addr width) s
  | .byteWrite space addr width b => byteChecked a space addr width (storeByte space addr b) s
  | .reset => .next (resetCore s)

/-- One event.  An access other than a STATUS read while BUSY = 1 is outside this model (R194, I18). -/
def hostEvent (a : HostEvent) (s : State) : Res :=
  if s.busy && !a.allowedWhileBusy then .refused (.accessWhileBusy a) else performEvent a s

/-- The state in which the oldest pending event acts: it is off the queue, nothing has been returned for it, and its free draw is fresh (R57, R69). -/
def State.taking (rest : List HostEvent) (s : State) : State :=
  { s with host := rest, rdata := none, draws := s.draws + 1 }

end Sys2Proof.Machine
end

