-- ==== Sys2Proof/Machine/Step.lean ====
section
/-! DEFINITION. One step of the machine: the oldest pending host event acts, whole and alone (R68, R69); with none pending the core holds its state (R182). -/

namespace Sys2Proof.Machine

/-- One step. -/
def step (s : State) : Host.Outcome State Fault Refusal :=
  match s.host with
  | [] => .next s
  | a :: rest => hostEvent a (s.taking rest)

/-- The host's next event is the write to CMD of the word `w`, `nbits` bits long, with every bit above them 0 (R53).  The core has no program counter and fetches nothing (R26, R73): this is where its next command comes from. -/
def State.withFetchWord (s : State) (nbits w : Nat) : State :=
  { s with host := .regWrite 0x000 8 (BitVec.ofNat 64 (w % 2 ^ nbits)) :: s.host }

end Sys2Proof.Machine
end

