-- ==== Sys2Proof/Machine/Assembler.lean ====
section
/-! DEFINITION. The assembler notation of R85 and R86: a line of a program as the host events it stands for, and a command line's text as the command it names. -/

namespace Sys2Proof.Machine

/-- A line of a program (R85, R86). -/
inductive AsmLine where
  /-- A command, by its mnemonic. -/
  | command (i : Instr)
  /-- `wr NAME, x`. -/
  | wr (name : Reg) (x : Word)
  /-- `rd NAME`. -/
  | rd (name : Reg)
  /-- `wrmsg a, b0, b1, …`. -/
  | wrmsg (a : Nat) (bytes : List Byte)
  /-- `rdpad a`. -/
  | rdpad (a : Nat)
  /-- `rddig a`. -/
  | rddig (a : Nat)
  /-- `.message "s"`. -/
  | message (s : String)
  /-- `BLOCK`. -/
  | block
  /-- `ROUNDS n`. -/
  | rounds (n : Nat)
  /-- `PREP v`. -/
  | prep (v : Nat)
  deriving DecidableEq, Repr

/-- A write of a register by its name (R85). -/
def writeName (name : Reg) (x : Word) : HostEvent := .regWrite name.offset 8 x

/-- The write to CMD that issues a command (R53, R85). -/
def issue (i : Instr) : HostEvent := writeName .cmd (BitVec.setWidth 64 (encode i))

/-- The writes of a byte string to MSG from an address on (R85). -/
def writeMessageBytes (a : Nat) (bytes : List Byte) : List HostEvent :=
  match bytes with
  | [] => []
  | b :: rest => .byteWrite .msg a 1 b :: writeMessageBytes (a + 1) rest

/-- The ASCII codes of a string (R86). -/
def asciiBytes (s : String) : List Byte := s.toList.map fun c => BitVec.ofNat 8 c.toNat

/-- The host events of a line (R85), a pseudo-instruction as its expansion (R86). -/
def assemble : AsmLine → List HostEvent
  | .command i => [issue i]
  | .wr name x => [writeName name x]
  | .rd name => [.regRead name.offset 8]
  | .wrmsg a bytes => writeMessageBytes a bytes
  | .rdpad a => [.byteRead .padbuf a 1]
  | .rddig a => [.byteRead .digest a 1]
  | .message s => writeMessageBytes 0 (asciiBytes s) ++ [writeName .msglen (BitVec.ofNat 64 (asciiBytes s).length)]
  | .block => [issue .expand, issue .compress]
  | .rounds n => List.replicate n (issue .round)
  | .prep v => [issue (.init v), issue .pad, issue .parse]

/-- The host events of a program, line after line. -/
def assembleProgram (program : List AsmLine) : List HostEvent := program.flatMap assemble

/-- A character in lower case; mnemonics are written in upper or lower case (R85). -/
def lowerChar (c : Char) : Char := if 65 ≤ c.toNat ∧ c.toNat ≤ 90 then Char.ofNat (c.toNat + 32) else c

/-- The words of a line in lower case, up to the `;` that starts a comment (R85). -/
def lineWords (line : String) : List String :=
  (((line.toList.takeWhile (fun c => c ≠ ';')).map lowerChar).splitOnP fun c => c = ' ').filterMap
    fun cs => if cs = [] then none else some (String.ofList cs)

/-- The operand of INIT and HASH: `sha256`, `sha512`, or `#n` for n = 0..3 (R85). -/
def parseOperand (word : String) : Option Nat :=
  if word = "sha256" ∨ word = "#0" then some 0
  else if word = "sha512" ∨ word = "#1" then some 1
  else if word = "#2" then some 2
  else if word = "#3" then some 3
  else none

/-- The command that a line of text names, none where it names none (R85). -/
def parseCommand (line : String) : Option Instr :=
  match lineWords line with
  | ["nop"] => some .nop
  | ["pad"] => some .pad
  | ["parse"] => some .parse
  | ["expand"] => some .expand
  | ["round"] => some .round
  | ["fold"] => some .fold
  | ["compress"] => some .compress
  | ["format"] => some .format
  | ["init", v] => (parseOperand v).map .init
  | ["hash", v] => (parseOperand v).map .hash
  | _ => none

end Sys2Proof.Machine
end

