-- ==== Sys2Proof/Machine/Instances.lean ====
section
/-! DEFINITION. Several instances of the core side by side (R76, R180): each has its own state and its own spaces, and a step of one touches no other. -/

namespace Sys2Proof.Machine

/-- One step of instance `k` of several; an instance that does not exist leaves everything as it is.  DESIGN CHOICE: a model fault or a refusal of one instance stops the whole platform, and no instance has a state to go on from; R60, R76 and R180 do not say what it does to the others (assumption 19). -/
def stepInstance (k : Nat) (cores : List State) : Host.Outcome (List State) Fault Refusal :=
  match cores[k]? with
  | none => .next cores
  | some s =>
    match step s with
    | .next t => .next (cores.set k t)
    | .fault f => .fault f
    | .refused r => .refused r

end Sys2Proof.Machine
end

