-- ==== Sys2Proof/Safety.lean ====
section
/-! DEFINITION. The terms the claims use: the invariant of R45, how a run ends (R155), and a sequence of commands issued one after another. -/

namespace Sys2Proof.Machine

/-- The phases of a run in which the padded stream is built (R45 item 8). -/
def Phase.padded : Phase → Bool
  | .parse | .expandSchedule | .compress | .finalize => true
  | .idle | .preprocess | .error => false

/-- The phases of a run in which the blocks are counted (R45 item 9). -/
def Phase.counted : Phase → Bool
  | .expandSchedule | .compress | .finalize => true
  | .idle | .preprocess | .parse | .error => false

/-- The phases in which a block is in hand (R45 item 6). -/
def Phase.inBlock : Phase → Bool
  | .expandSchedule | .compress => true
  | .idle | .preprocess | .parse | .finalize | .error => false

/-- A narrow word: the upper half of its storage is 0 (R24). -/
def fitsNarrow (x : Word) : Prop := x.toNat < 2 ^ 32

/-- The invariant of the reachable states: the items of R45 that the types of State leave open, and what R36, R37 and R41 to R43 say of BUSY, DLEN and the three memories.  (Items 1 and 4 hold by the types of PHASE and VARIANT.) -/
structure Inv (s : State) : Prop where
  /-- R45 item 2. -/
  error_iff : s.phase = .error ↔ s.err ≠ .noError
  /-- R45 item 3. -/
  dv_iff : s.dv = true ↔ s.phase = .finalize
  /-- R45 item 5, for T. -/
  t_le : s.t.toNat ≤ s.cfg.rounds
  /-- R45 item 5, for BLKIDX. -/
  blkidx_le : s.blkidx.toNat ≤ s.nblk.toNat
  /-- R45 item 6. -/
  blkidx_lt : s.phase.inBlock = true → s.blkidx.toNat < s.nblk.toNat
  /-- R45 item 7. -/
  finalized : s.phase = .finalize →
    s.blkidx = s.nblk ∧ s.dlen.toNat = s.cfg.digestChars ∧
    Memory.readBytes ByteSpace.digest.background s.digest 0 s.dlen.toNat = some (formatDigest s.cfg s.h)
  /-- R45 item 8. -/
  padded_blocks : s.phase.padded = true → 0 < s.padlen.toNat ∧ 8 * s.padlen.toNat % s.cfg.blockBits = 0
  /-- R45 item 9. -/
  nblk_eq : s.phase.counted = true → s.nblk.toNat = 8 * s.padlen.toNat / s.cfg.blockBits
  /-- R45 item 10, for H and WV. -/
  narrow_words : s.variant = .narrow → ∀ j : Fin 8, fitsNarrow s.h[j] ∧ fitsNarrow s.wv[j]
  /-- R45 item 10, for W. -/
  narrow_schedule : s.variant = .narrow → ∀ i : Fin 80, fitsNarrow s.w[i]
  /-- R36. -/
  not_busy : s.busy = false
  /-- R37. -/
  dlen_values : s.dlen.toNat = 0 ∨ s.dlen.toNat = 64 ∨ s.dlen.toNat = 128
  /-- R43: cells DLEN..127 hold 0x00. -/
  digest_tail : ∀ k, s.dlen.toNat ≤ k → k < 128 →
    Memory.read ByteSpace.digest.background s.digest k = some 0
  /-- R42: the padded stream is stored. -/
  stream_stored : s.phase.padded = true → ∀ a, a < s.padlen.toNat →
    (Memory.read ByteSpace.padbuf.background s.padbuf a).isSome = true
  /-- R42, R47: the padded stream lies inside PADBUF. -/
  stream_fits : s.padlen.toNat ≤ s.padCap
  /-- The memories keep their canonical form. -/
  memories_wf : Memory.wf ByteSpace.msg.background s.msg = true ∧
    Memory.wf ByteSpace.padbuf.background s.padbuf = true ∧
    Memory.wf ByteSpace.digest.background s.digest = true
  /-- R41 to R43, R47: every listed cell lies inside its space. -/
  memories_inside : (∀ cell ∈ s.msg, cell.1 < s.spaceSize .msg) ∧
    (∀ cell ∈ s.padbuf, cell.1 < s.spaceSize .padbuf) ∧
    (∀ cell ∈ s.digest, cell.1 < s.spaceSize .digest)

/-- A run has ended successfully (R155). -/
def State.endedSuccessfully (s : State) : Prop := s.phase = .finalize

/-- A run has failed (R155). -/
def State.endedFailed (s : State) : Prop := s.phase = .error

/-- A run has ended (R155); a model fault is no end. -/
def State.ended (s : State) : Prop := s.endedSuccessfully ∨ s.endedFailed

/-- Issue commands one after another, stopping at the first stop of the machine. -/
def runCommands (commands : List Instr) (s : State) : Res :=
  match commands with
  | [] => .next s
  | i :: rest =>
    match exec i s with
    | .next t => runCommands rest t
    | .fault f => .fault f
    | .refused r => .refused r

/-- The host's duties for a PAD of the selected variant `cfg` (R193 item 3) and a message that is not too long (R119): the message is `m`, it fits MSG, and its bit length fits the length field. -/
def State.holdsMessage (s : State) (cfg : VariantConfig) (m : List Byte) : Prop :=
  s.message = some m ∧ s.msglen.toNat ≤ s.msgCap.val ∧ 8 * s.msglen.toNat < 2 ^ cfg.lengthFieldBits

end Sys2Proof.Machine
end

