-- ==== Sys2Proof/Certificates/Slice0/Obligations.lean ====
section
/-! DEFINITION. The statements for the provers, each about the machine and none about a program.  First the words the statements share: how a byte is read, what DIGEST shows, and the values of the registers in the spec's own terms. -/

open Sys2Proof Sys2Proof.Machine

namespace Sys2Proof.Claims

/-- What the MSG cell at an address holds, none if it is unwritten. -/
abbrev msgAt (s : State) (a : Nat) : Option Byte := Memory.read ByteSpace.msg.background s.msg a

/-- What the PADBUF cell at an address holds, none if nothing has been stored there. -/
abbrev padAt (s : State) (a : Nat) : Option Byte := Memory.read ByteSpace.padbuf.background s.padbuf a

/-- What the DIGEST cell at an address holds. -/
abbrev digestAt (s : State) (a : Nat) : Option Byte := Memory.read ByteSpace.digest.background s.digest a

/-- The ASCII code of a lowercase hexadecimal digit (R89). -/
def hexAscii (d : Nat) : Byte := if d < 10 then BitVec.ofNat 8 (48 + d) else BitVec.ofNat 8 (87 + d)

/-- Character `k` of the digest of a hash state: digit `k mod (w/4)`, from the most significant, of word `k div (w/4)` (R149). -/
def digestByte (cfg : VariantConfig) (h : Vector Word 8) (k : Nat) : Byte :=
  hexAscii ((h.toList.getD (k / (cfg.wordBits / 4)) 0).toNat /
    16 ^ (cfg.wordBits / 4 - 1 - k % (cfg.wordBits / 4)) % 16)

/-- DIGEST shows a hash state: DC characters, then 0x00, and nothing beyond the space changed (R153). -/
def DigestShows (cfg : VariantConfig) (h : Vector Word 8) (before after : State) : Prop :=
  (∀ k, k < cfg.digestChars → digestAt after k = some (digestByte cfg h k)) ∧
  (∀ k, cfg.digestChars ≤ k → k < 128 → digestAt after k = some 0) ∧
  (∀ k, 128 ≤ k → digestAt after k = digestAt before k)

/-- DIGEST is cleared: all 128 cells hold 0x00 (R43). -/
def DigestCleared (before after : State) : Prop :=
  (∀ k, k < 128 → digestAt after k = some 0) ∧ (∀ k, 128 ≤ k → digestAt after k = digestAt before k)

/-- The entry into FINALIZE from `s`, whose hash state has become `h` (R153): DIGEST, DLEN, DV and PHASE; the rest is as `rest` says. -/
def EntersFinalize (cfg : VariantConfig) (h : Vector Word 8) (before after rest : State) : Prop :=
  after = { rest with phase := .finalize, dv := true, dlen := after.dlen, digest := after.digest } ∧
  after.dlen.toNat = cfg.digestChars ∧ DigestShows cfg h before after

/-- STATUS as R38 assembles it, as a number. -/
def statusNumber (s : State) : Nat :=
  s.phase.code + 8 * s.dv.toNat + 16 * s.variant.code + 128 * s.busy.toNat + 256 * s.err.code

/-- What a host read of a register returns (R50, R55). -/
def regValue (s : State) : Reg → Word
  | .cmd => 0
  | .status => BitVec.ofNat 64 (statusNumber s)
  | .msglen => s.msglen
  | .padlen => s.padlen
  | .nblk => s.nblk
  | .blkidx => s.blkidx
  | .t => BitVec.ofNat 64 s.t.toNat
  | .dlen => BitVec.ofNat 64 s.dlen.toNat
  | .h j => s.h[j]
  | .wv j => s.wv[j]
  | .w i => s.w[i]

/-- The state in which the oldest event acts: `rest` is left to do, nothing has been returned for it yet, and the model's draw counter has advanced. -/
def acting (rest : List HostEvent) (s : State) : State :=
  { s with host := rest, rdata := none, draws := s.draws + 1 }

/-- The state with another message: MSG and MSGLEN are the host's (R32, R41). -/
def withMessage (m : Memory) (n : BitVec 64) (s : State) : State := { s with msg := m, msglen := n }

/-- An outcome with its next state changed by `f`. -/
def mapNext (f : State → State) : Res → Res
  | .next s => .next (f s)
  | .fault e => .fault e
  | .refused r => .refused r

/-- The number of blocks of a padded message of `len` bytes, ⌊(L + LB) / BB⌋ + 1 (R122). -/
def blocksOf (cfg : VariantConfig) (len : Nat) : Nat := (len + cfg.lengthFieldBytes) / cfg.blockBytes + 1

/-- Block `k` of a byte stream (R130). -/
def byteBlock (cfg : VariantConfig) (stream : List Byte) (k : Nat) : List Byte :=
  (stream.drop (k * cfg.blockBytes)).take cfg.blockBytes

/-- The number that a bit string encodes, most significant bit first (R12). -/
def bitsNat (bits : List Bool) : Nat := bits.foldl (fun acc x => 2 * acc + x.toNat) 0

/-- Trial division. -/
def isPrime (n : Nat) : Bool := decide (2 ≤ n) && (List.range n).all fun d => decide (d < 2) || decide (n % d ≠ 0)

/-- The first 80 primes, 2 to 409 (R98). -/
def primes : List Nat := (List.range 410).filter isPrime

end Sys2Proof.Claims

open Sys2Proof.Claims

/-! Encoding. -/

/-- R77, R79, R82: no bit of an encoding is dropped.  Every well-formed command, at every operand its field admits, is what its word decodes to, and every word that decodes is the word of the command it decodes to. -/
def Obligations.DecodeEncodeRoundTrip : Prop :=
  (∀ i : Instr, i.wellFormed = true → decode (encode i) = .ok i) ∧
  (∀ (c : Byte) (i : Instr), decode c = .ok i → i.wellFormed = true ∧ encode i = c)

/-- R82: the decoder by the fields of the word, and the 16 legal words. -/
def Obligations.DecoderFollowsFields : Prop :=
  (∀ c : Byte,
    (c.toNat / 16 = 0x1 ∧ c.toNat / 4 % 4 = 0 → decode c = .ok (.init (c.toNat % 4))) ∧
    (c.toNat / 16 = 0x9 ∧ c.toNat / 4 % 4 = 0 → decode c = .ok (.hash (c.toNat % 4))) ∧
    (c.toNat = 0x00 → decode c = .ok .nop) ∧ (c.toNat = 0x20 → decode c = .ok .pad) ∧
    (c.toNat = 0x30 → decode c = .ok .parse) ∧ (c.toNat = 0x40 → decode c = .ok .expand) ∧
    (c.toNat = 0x50 → decode c = .ok .round) ∧ (c.toNat = 0x60 → decode c = .ok .fold) ∧
    (c.toNat = 0x70 → decode c = .ok .compress) ∧ (c.toNat = 0x80 → decode c = .ok .format)) ∧
  (∀ c : Byte, (∃ i, decode c = .ok i) ↔
    c.toNat ∈ [0x00, 0x10, 0x11, 0x12, 0x13, 0x20, 0x30, 0x40, 0x50, 0x60, 0x70, 0x80, 0x90, 0x91, 0x92, 0x93])

/-- R79: one word of each row of the opcode map, written out bit by bit, is the command it stands for. -/
def Obligations.SpelledOutWordsDecode : Prop :=
  decode 0b00000000#8 = .ok .nop ∧ decode 0b00010001#8 = .ok (.init 1) ∧ decode 0b00100000#8 = .ok .pad ∧
  decode 0b00110000#8 = .ok .parse ∧ decode 0b01000000#8 = .ok .expand ∧ decode 0b01010000#8 = .ok .round ∧
  decode 0b01100000#8 = .ok .fold ∧ decode 0b01110000#8 = .ok .compress ∧ decode 0b10000000#8 = .ok .format ∧
  decode 0b10010011#8 = .ok (.hash 3)

/-- R83: the three groups of ILLEGAL words and their sizes, and what an ILLEGAL word does in every phase. -/
def Obligations.IllegalWordsRaiseOrDrop : Prop :=
  (∀ c : Byte, decode c = .error .reservedOp ↔ 0xA ≤ c.toNat / 16) ∧
  (∀ c : Byte, decode c = .error .reservedBits ↔
    (c.toNat / 16 = 0x1 ∨ c.toNat / 16 = 0x9) ∧ c.toNat / 4 % 4 ≠ 0) ∧
  (∀ c : Byte, decode c = .error .lowBits ↔
    (c.toNat / 16 = 0x0 ∨ (0x2 ≤ c.toNat / 16 ∧ c.toNat / 16 ≤ 0x8)) ∧ c.toNat % 16 ≠ 0) ∧
  ((List.range 256).filter fun n => decide (0xA ≤ n / 16)).length = 96 ∧
  ((List.range 256).filter fun n => decide ((n / 16 = 0x1 ∨ n / 16 = 0x9) ∧ n / 4 % 4 ≠ 0)).length = 24 ∧
  ((List.range 256).filter fun n =>
    decide ((n / 16 = 0x0 ∨ (0x2 ≤ n / 16 ∧ n / 16 ≤ 0x8)) ∧ n % 16 ≠ 0)).length = 120 ∧
  (∀ (c : Byte) (e : IllegalWord) (s : State), decode c = .error e →
    (s.phase = .error → issueCommand c s = .next s) ∧
    (s.phase ≠ .error → issueCommand c s = .next (raiseError .illegalCommand s)))

/-! The step. -/

/-- A step runs the decoded command (R53, R68, R69, R182): with nothing pending the state is held; a pending write of `x` to CMD performs the command whose word is `x[7:0]`, on the state that has taken the write off the queue; an ILLEGAL word is dropped in ERROR and raises IllegalCommand otherwise.  The queue, the draw counter and the reply are the model's own fields (assumption 1). -/
def Obligations.StepRunsDecodedCommand : Prop :=
  (∀ s : State, s.host = [] → step s = .next s) ∧
  (∀ (s : State) (rest : List HostEvent) (x : Word), s.busy = false → s.host = .regWrite 0 8 x :: rest →
    (∀ i, decode (BitVec.ofNat 8 (x.toNat % 256)) = .ok i → step s = exec i (acting rest s)) ∧
    (∀ e, decode (BitVec.ofNat 8 (x.toNat % 256)) = .error e →
      (s.phase = .error → step s = .next (acting rest s)) ∧
      (s.phase ≠ .error → step s = .next (raiseError .illegalCommand (acting rest s)))))

/-- R71 and the last sentence of R53: an event that is neither a write to CMD nor reset moves no register or memory of the core but the one it stores to, MSGLEN or one MSG cell, and every other cell of MSG reads as before. -/
def Obligations.OnlyCommandWritesMoveTheCore : Prop :=
  ∀ (s t : State) (a : HostEvent) (rest : List HostEvent),
    s.host = a :: rest → a ≠ .reset → (∀ x, a ≠ .regWrite 0 8 x) → step s = .next t →
    t = { acting rest s with rdata := t.rdata, msglen := t.msglen, msg := t.msg } ∧
    (t.msglen = s.msglen ∨ ∃ x, a = .regWrite 0x010 8 x ∧ t.msglen = x) ∧
    (t.msg = s.msg ∨ ∃ addr b, a = .byteWrite .msg addr 1 b ∧
      t.msg = Memory.write ByteSpace.msg.background s.msg addr b ∧
      msgAt t addr = some b ∧ ∀ k, k ≠ addr → msgAt t k = msgAt s k)

/-- R194, I18: while BUSY = 1, an access other than an 8-byte read of STATUS is outside the model.  (BUSY is 0 in every state of a run, R36.) -/
def Obligations.AccessWhileBusyIsRefused : Prop :=
  ∀ (s : State) (a : HostEvent) (rest : List HostEvent), s.busy = true → s.host = a :: rest →
    a ≠ .reset → a ≠ .regRead 0x008 8 → step s = .refused (.accessWhileBusy a)

/-! Host accesses. -/

/-- R55: a read of a mapped REG offset returns the register's value zero-extended, CMD returns 0, and nothing else of the core changes, so a second read returns the same value. -/
def Obligations.RegisterReadReturnsValue : Prop :=
  ∀ (s : State) (r : Reg) (rest : List HostEvent), s.busy = false → s.host = .regRead r.offset 8 :: rest →
    step s = .next { acting rest s with rdata := some (regValue s r) }

/-- R48, R51: a REG access that is not 8 bytes wide or not 8-byte aligned, or at an unmapped offset, is a model fault that records the access. -/
def Obligations.MalformedRegisterAccessFaults : Prop :=
  ∀ (s : State) (a : HostEvent) (rest : List HostEvent) (offset width : Nat),
    s.busy = false → s.host = a :: rest →
    (a = .regRead offset width ∨ ∃ x, a = .regWrite offset width x) →
    (width ≠ 8 ∨ offset % 8 ≠ 0 → step s = .fault (.regWidthOrAlignment a)) ∧
    (width = 8 ∧ offset % 8 = 0 ∧ ((0x0C0 ≤ offset ∧ offset ≤ 0x0F8) ∨ (0x380 ≤ offset ∧ offset ≤ 0x3F8)) →
      step s = .fault (.regUnmapped a))

/-- Beyond the REG space of R47, from offset 0x400 on, an aligned 8-byte access is a model fault that records it.  The spec names no outcome there: the model's choice (assumption 10). -/
def Obligations.RegisterAccessBeyondSpaceFaults : Prop :=
  ∀ (s : State) (rest : List HostEvent) (offset : Nat), s.busy = false → offset % 8 = 0 → 0x400 ≤ offset →
    (s.host = .regRead offset 8 :: rest → step s = .fault (.regUnmapped (.regRead offset 8))) ∧
    (∀ x, s.host = .regWrite offset 8 x :: rest → step s = .fault (.regUnmapped (.regWrite offset 8 x)))

/-- R49: a byte access that is not 1 byte wide, or outside its space, is a model fault that records the access.  (Where both hold, the model names the width.) -/
def Obligations.MalformedByteAccessFaults : Prop :=
  ∀ (s : State) (a : HostEvent) (rest : List HostEvent) (space : ByteSpace) (addr width : Nat),
    s.busy = false → s.host = a :: rest →
    (a = .byteRead space addr width ∨ ∃ b, a = .byteWrite space addr width b) →
    (width ≠ 1 → step s = .fault (.byteWidth a)) ∧
    (width = 1 →
      (space = .msg → s.msgCap.val ≤ addr → step s = .fault (.byteOutside a)) ∧
      (space = .padbuf → s.msgCap.val + 144 ≤ addr → step s = .fault (.byteOutside a)) ∧
      (space = .digest → 128 ≤ addr → step s = .fault (.byteOutside a)))

/-- R56: a write of a byte at an address inside MSG is accepted in every phase, sets that cell alone, and marks it written; a read returns the byte of a written cell and is a model fault for an unwritten one. -/
def Obligations.MessageMemoryReadsWhatWasWritten : Prop :=
  ∀ (s : State) (rest : List HostEvent) (addr : Nat), s.busy = false → addr < s.msgCap.val →
    (∀ b, s.host = .byteWrite .msg addr 1 b :: rest →
      ∃ t, step s = .next t ∧ t = { acting rest s with msg := t.msg } ∧ msgAt t addr = some b ∧
        ∀ a, a ≠ addr → msgAt t a = msgAt s a) ∧
    (∀ b, s.host = .byteRead .msg addr 1 :: rest → msgAt s addr = some b →
      step s = .next { acting rest s with rdata := some (BitVec.setWidth 64 b) }) ∧
    (s.host = .byteRead .msg addr 1 :: rest → msgAt s addr = none →
      step s = .fault (.unwrittenRead (.byteRead .msg addr 1)))

/-- R57, R58: a read inside PADBUF returns the stored byte below PADLEN and an unspecified byte from PADLEN on, the free draw whose number no other access has; a read inside DIGEST returns the byte of the cell; a write inside either is ignored.  (The free draw is assumption 3; the statement holds whatever it is.) -/
def Obligations.PadbufAndDigestAccesses : Prop :=
  ∀ (s : State) (rest : List HostEvent) (addr : Nat), s.busy = false →
    (∀ b, s.host = .byteRead .padbuf addr 1 :: rest → addr < s.msgCap.val + 144 → addr < s.padlen.toNat →
      padAt s addr = some b →
      step s = .next { acting rest s with rdata := some (BitVec.setWidth 64 b) }) ∧
    (s.host = .byteRead .padbuf addr 1 :: rest → addr < s.msgCap.val + 144 → s.padlen.toNat ≤ addr →
      step s = .next { acting rest s with
        rdata := some (BitVec.setWidth 64 (Config.padDraw (s.draws + 1) addr)) }) ∧
    (∀ b, s.host = .byteRead .digest addr 1 :: rest → addr < 128 → digestAt s addr = some b →
      step s = .next { acting rest s with rdata := some (BitVec.setWidth 64 b) }) ∧
    (∀ b, (s.host = .byteWrite .padbuf addr 1 b :: rest ∧ addr < s.msgCap.val + 144) ∨
      (s.host = .byteWrite .digest addr 1 b :: rest ∧ addr < 128) → step s = .next (acting rest s))

/-- R52: a write to a read-only register or to a cell of a read-only space changes no state. -/
def Obligations.ReadOnlyWritesAreIgnored : Prop :=
  ∀ (s : State) (rest : List HostEvent), s.busy = false →
    (∀ (r : Reg) (x : Word), r ≠ .cmd → r ≠ .msglen → s.host = .regWrite r.offset 8 x :: rest →
      step s = .next (acting rest s)) ∧
    (∀ addr b, s.host = .byteWrite .padbuf addr 1 b :: rest → addr < s.msgCap.val + 144 →
      step s = .next (acting rest s)) ∧
    (∀ addr b, s.host = .byteWrite .digest addr 1 b :: rest → addr < 128 → step s = .next (acting rest s))

/-- R54: a write of any 64-bit value to MSGLEN stores it in every phase. -/
def Obligations.MsglenWriteStoresValue : Prop :=
  ∀ (s : State) (rest : List HostEvent) (x : Word), s.busy = false → s.host = .regWrite 0x010 8 x :: rest →
    step s = .next { acting rest s with msglen := x }

/-- R38, with the codes of R27, R33 and R165: the fields of STATUS, its reserved bits, its value, and that a write to it is ignored. -/
def Obligations.StatusLayout : Prop :=
  (∀ s : State, s.status.toNat = statusNumber s ∧
    s.status.toNat % 8 = s.phase.code ∧ s.status.toNat / 8 % 2 = s.dv.toNat ∧
    s.status.toNat / 16 % 4 = s.variant.code ∧ s.status.toNat / 64 % 2 = 0 ∧
    s.status.toNat / 128 % 2 = s.busy.toNat ∧ s.status.toNat / 256 % 8 = s.err.code ∧
    s.status.toNat / 2048 = 0) ∧
  (∀ (s : State) (rest : List HostEvent) (x : Word), s.busy = false → s.host = .regWrite 0x008 8 x :: rest →
    step s = .next (acting rest s)) ∧
  [Phase.idle, .preprocess, .parse, .expandSchedule, .compress, .finalize, .error].map Phase.code =
    [0, 1, 2, 3, 4, 5, 6] ∧
  [Variant.narrow, .wide].map Variant.code = [0, 1] ∧
  [ErrKind.noError, .messageTooLong, .invalidLength, .unsupportedVariant, .illegalCommand, .sequenceError].map
    ErrKind.code = [0, 1, 2, 3, 4, 5]

/-- R44, R183: reset can act between any two steps and leaves every register and memory of R19 at its reset value: MSG cells unwritten, no PADBUF cell stored (assumption 5), DIGEST all 0x00.  The last clauses are the model's choice (assumption 12): MSG_CAP, the constants and the rest of the queue are kept, the draw counter advances as for every event, and the reply is none. -/
def Obligations.ResetSetsEveryRegister : Prop :=
  ∀ (s : State) (rest : List HostEvent), s.host = .reset :: rest →
    ∃ t, step s = .next t ∧
      t.phase = .idle ∧ t.variant = .narrow ∧ t.err = .noError ∧ t.dv = false ∧ t.busy = false ∧
      t.t = 0 ∧ t.blkidx = 0 ∧ t.nblk = 0 ∧ t.padlen = 0 ∧ t.msglen = 0 ∧ t.dlen = 0 ∧
      (∀ j : Fin 8, t.h[j] = 0 ∧ t.wv[j] = 0) ∧ (∀ i : Fin 80, t.w[i] = 0) ∧
      (∀ a, msgAt t a = none) ∧ (∀ a, padAt t a = none) ∧ (∀ a, a < 128 → digestAt t a = some 0) ∧
      t.msgCap = s.msgCap ∧ t.constants = s.constants ∧ t.draws = s.draws + 1 ∧ t.host = rest ∧ t.rdata = none

/-! Errors and phases. -/

/-- R168: what raising an error does, and that a command which raises makes none of its own writes (the spec's own inference: "Every command rule checks for its errors before it writes any state"); HASH alone keeps the effects of the parts it has completed, which are those of INIT. -/
def Obligations.RaisingMakesNoOtherWrite : Prop :=
  (∀ (e : ErrKind) (s : State),
    raiseError e s = { s with
      err := e, phase := .error, dlen := 0, dv := false, digest := (raiseError e s).digest } ∧
    DigestCleared s (raiseError e s)) ∧
  (∀ (i : Instr) (s t : State), (∀ v, i ≠ .hash v) → exec i s = .next t → t.phase = .error →
    (s.phase = .error ∧ t = s) ∨ ∃ e, e ≠ .noError ∧ t = raiseError e s) ∧
  (∀ (v : Nat) (s t : State), exec (.hash v) s = .next t → t.phase = .error →
    (select v = none ∧ t = raiseError .unsupportedVariant s) ∨
    ∃ x, select v = some x ∧ t = raiseError .messageTooLong (beginRun x s))

/-- R170: in ERROR a word that decodes to anything other than NOP, INIT or HASH, or to nothing, changes no state. -/
def Obligations.DroppedInError : Prop :=
  ∀ (s : State) (c : Byte), s.phase = .error →
    (∀ v, decode c ≠ .ok (.init v)) → (∀ v, decode c ≠ .ok (.hash v)) → issueCommand c s = .next s

/-- R152: the table of legality and transitions, row by row, for every command the machine completes from a state that meets the invariant of R45, and its column of ILLEGAL words. -/
def Obligations.PhaseTransitionTable : Prop :=
  (∀ (s : State) (c : Byte) (e : IllegalWord), decode c = .error e →
    (s.phase = .error → issueCommand c s = .next s) ∧
    (s.phase ≠ .error → issueCommand c s = .next (raiseError .illegalCommand s))) ∧
  (∀ (s t : State) (i : Instr), Inv s → i.wellFormed = true → exec i s = .next t →
    match i with
    | .nop => t.phase = s.phase
    | .init v => if v < 2 then t.phase = .preprocess else t.phase = .error
    | .pad =>
      (s.phase = .error → t = s) ∧
      (s.phase = .preprocess → t.phase = .parse ∨ t = raiseError .messageTooLong s) ∧
      (s.phase ≠ .error ∧ s.phase ≠ .preprocess → t = raiseError .sequenceError s)
    | .parse =>
      (s.phase = .error → t = s) ∧ (s.phase = .parse → t.phase = .expandSchedule) ∧
      (s.phase ≠ .error ∧ s.phase ≠ .parse → t = raiseError .sequenceError s)
    | .expand =>
      (s.phase = .error → t = s) ∧ (s.phase = .expandSchedule → t.phase = .compress) ∧
      (s.phase ≠ .error ∧ s.phase ≠ .expandSchedule → t = raiseError .sequenceError s)
    | .round =>
      (s.phase = .error → t = s) ∧
      (s.phase = .compress ∧ s.t.toNat < s.cfg.rounds → t.phase = .compress) ∧
      (s.phase = .compress ∧ s.t.toNat = s.cfg.rounds → t = raiseError .sequenceError s) ∧
      (s.phase ≠ .error ∧ s.phase ≠ .compress → t = raiseError .sequenceError s)
    | .fold =>
      (s.phase = .error → t = s) ∧
      (s.phase = .compress ∧ s.t.toNat = s.cfg.rounds →
        t.phase = if s.blkidx.toNat + 1 < s.nblk.toNat then .expandSchedule else .finalize) ∧
      (s.phase = .compress ∧ s.t.toNat < s.cfg.rounds → t = raiseError .sequenceError s) ∧
      (s.phase ≠ .error ∧ s.phase ≠ .compress → t = raiseError .sequenceError s)
    | .compress =>
      (s.phase = .error → t = s) ∧
      (s.phase = .compress →
        t.phase = if s.blkidx.toNat + 1 < s.nblk.toNat then .expandSchedule else .finalize) ∧
      (s.phase ≠ .error ∧ s.phase ≠ .compress → t = raiseError .sequenceError s)
    | .format =>
      (s.phase = .error → t = s) ∧ (s.phase = .idle → t = raiseError .sequenceError s) ∧
      (s.phase ≠ .error ∧ s.phase ≠ .idle → t.phase = s.phase)
    | .hash v =>
      if v < 2 then t.phase = .finalize ∨ (t.phase = .error ∧ t.err = .messageTooLong)
      else t.phase = .error ∧ t.err = .unsupportedVariant)

/-- R172: a step leaves ERROR only by reset, or by INIT or HASH with a supported variant, and each of the three does leave it; INIT clears ERR and goes to PREPROCESS. -/
def Obligations.LeavingErrorTakesANewRun : Prop :=
  (∀ s t : State, s.phase = .error → step s = .next t → t.phase ≠ .error →
    ∃ a rest, s.host = a :: rest ∧
      (a = .reset ∨ ∃ x v, a = .regWrite 0 8 x ∧ v < 2 ∧
        (decode (BitVec.ofNat 8 (x.toNat % 256)) = .ok (.init v) ∨
          decode (BitVec.ofNat 8 (x.toNat % 256)) = .ok (.hash v)))) ∧
  (∀ (s : State) (v : Nat), s.phase = .error → v < 2 →
    ∃ t, exec (.init v) s = .next t ∧ t.phase = .preprocess ∧ t.err = .noError) ∧
  (∀ (s : State) (v : Nat) (x : Variant) (m : List Byte), s.phase = .error →
    (v = 0 ∧ x = .narrow) ∨ (v = 1 ∧ x = .wide) → s.holdsMessage (x.cfg s.constants) m →
    ∃ t, exec (.hash v) s = .next t ∧ t.phase = .finalize ∧ t.err = .noError) ∧
  (∀ (s : State) (rest : List HostEvent), s.phase = .error → s.host = .reset :: rest →
    ∃ t, step s = .next t ∧ t.phase = .idle ∧ t.err = .noError)

/-- R154: in FINALIZE only INIT and HASH start a new run, each under the variant of its code, and raise UnsupportedVariant for a code without one; FORMAT and NOP leave the phase, and every other command raises SequenceError. -/
def Obligations.FinalizeEndsTheRun : Prop :=
  ∀ s : State, s.phase = .finalize →
    exec .nop s = .next s ∧
    (∃ t, exec .format s = .next t ∧ t.phase = .finalize) ∧
    (∀ i, i = .pad ∨ i = .parse ∨ i = .expand ∨ i = .round ∨ i = .fold ∨ i = .compress →
      exec i s = .next (raiseError .sequenceError s)) ∧
    (∀ (v : Nat) (x : Variant), (v = 0 ∧ x = .narrow) ∨ (v = 1 ∧ x = .wide) →
      ∃ t, exec (.init v) s = .next t ∧ t.phase = .preprocess ∧ t.variant = x) ∧
    (∀ v, v = 2 ∨ v = 3 → exec (.init v) s = .next (raiseError .unsupportedVariant s) ∧
      exec (.hash v) s = .next (raiseError .unsupportedVariant s)) ∧
    (∀ (v : Nat) (x : Variant) (m : List Byte), (v = 0 ∧ x = .narrow) ∨ (v = 1 ∧ x = .wide) →
      s.holdsMessage (x.cfg s.constants) m → ∃ t, exec (.hash v) s = .next t ∧ t.phase = .finalize ∧ t.variant = x)

/-! The commands. -/

/-- R156: NOP changes no state in any phase, and the words 0x01 to 0x0F are ILLEGAL, not NOP. -/
def Obligations.NopChangesNothing : Prop :=
  (∀ s : State, exec .nop s = .next s) ∧ decode 0x00 = .ok .nop ∧
  (∀ c : Byte, 0x01 ≤ c.toNat → c.toNat ≤ 0x0F → ∃ e, decode c = .error e)

/-- R157: INIT completes in every phase.  For v = 0 and v = 1 it writes exactly the registers of its rule; for v = 2 and v = 3 it raises UnsupportedVariant and nothing else changes, VARIANT included. -/
def Obligations.InitStartsARun : Prop :=
  (∀ (s : State) (v : Nat) (x : Variant), (v = 0 ∧ x = .narrow) ∨ (v = 1 ∧ x = .wide) →
    ∃ t, exec (.init v) s = .next t ∧
      t = { s with
        variant := x, h := (x.cfg s.constants).initialState, wv := Vector.replicate 8 0, w := Vector.replicate 80 0
        t := 0, blkidx := 0, nblk := 0, padlen := 0, dlen := 0, dv := false, err := .noError
        phase := .preprocess, digest := t.digest } ∧
      DigestCleared s t) ∧
  (∀ (s : State) (v : Nat), v = 2 ∨ v = 3 →
    ∃ t, exec (.init v) s = .next t ∧
      t = { s with
        err := .unsupportedVariant, phase := .error, dlen := 0, dv := false, digest := t.digest } ∧
      DigestCleared s t)

/-- R126: PAD in every case.  Dropped in ERROR; SequenceError outside PREPROCESS; MessageTooLong before the model faults; the two model faults; else PADBUF holds the message, 0x80, zeros and the big-endian bit length, every later cell is as before, and only PADBUF, PADLEN and PHASE change. -/
def Obligations.PadStoresPaddedStream : Prop :=
  ∀ s : State,
    (s.phase = .error → exec .pad s = .next s) ∧
    (s.phase ≠ .error → s.phase ≠ .preprocess → exec .pad s = .next (raiseError .sequenceError s)) ∧
    (s.phase = .preprocess → 2 ^ s.cfg.lengthFieldBits ≤ 8 * s.msglen.toNat →
      exec .pad s = .next (raiseError .messageTooLong s)) ∧
    (s.phase = .preprocess → 8 * s.msglen.toNat < 2 ^ s.cfg.lengthFieldBits → s.msgCap.val < s.msglen.toNat →
      exec .pad s = .fault (.messageOverCapacity .pad)) ∧
    (s.phase = .preprocess → 8 * s.msglen.toNat < 2 ^ s.cfg.lengthFieldBits → s.msglen.toNat ≤ s.msgCap.val →
      (∃ a, a < s.msglen.toNat ∧ msgAt s a = none) → exec .pad s = .fault (.unwrittenMessageByte .pad)) ∧
    (s.phase = .preprocess → 8 * s.msglen.toNat < 2 ^ s.cfg.lengthFieldBits → s.msglen.toNat ≤ s.msgCap.val →
      (∀ a, a < s.msglen.toNat → msgAt s a ≠ none) →
      ∃ t, exec .pad s = .next t ∧
        t = { s with padbuf := t.padbuf, padlen := t.padlen, phase := .parse } ∧
        t.padlen.toNat = s.cfg.blockBytes * blocksOf s.cfg s.msglen.toNat ∧
        (∀ a, a < s.msglen.toNat → padAt t a = msgAt s a) ∧
        padAt t s.msglen.toNat = some 0x80 ∧
        (∀ a, s.msglen.toNat < a → a + s.cfg.lengthFieldBytes < t.padlen.toNat → padAt t a = some 0) ∧
        (∀ k, k < s.cfg.lengthFieldBytes →
          padAt t (t.padlen.toNat - 1 - k) = some (BitVec.ofNat 8 (8 * s.msglen.toNat / 256 ^ k))) ∧
        (∀ a, t.padlen.toNat ≤ a → padAt t a = padAt s a))

/-- R132: PARSE in every case.  Dropped in ERROR; SequenceError outside PARSE; InvalidLength if the bit length is not a multiple of block_bits; the entry into FINALIZE for zero blocks; else NBLK, BLKIDX and PHASE, and nothing else. -/
def Obligations.ParseCountsBlocks : Prop :=
  ∀ s : State,
    (s.phase = .error → exec .parse s = .next s) ∧
    (s.phase ≠ .error → s.phase ≠ .parse → exec .parse s = .next (raiseError .sequenceError s)) ∧
    (s.phase = .parse → 8 * s.padlen.toNat % s.cfg.blockBits ≠ 0 →
      exec .parse s = .next (raiseError .invalidLength s)) ∧
    (s.phase = .parse → 8 * s.padlen.toNat % s.cfg.blockBits = 0 → s.padlen.toNat ≠ 0 →
      ∃ t, exec .parse s = .next t ∧
        t = { s with nblk := t.nblk, blkidx := 0, phase := .expandSchedule } ∧
        t.nblk.toNat = 8 * s.padlen.toNat / s.cfg.blockBits) ∧
    (s.phase = .parse → s.padlen.toNat = 0 →
      ∃ t, exec .parse s = .next t ∧
        EntersFinalize s.cfg s.h s t { s with nblk := 0, blkidx := 0 })

/-- R138: EXPAND in every case.  Dropped in ERROR; SequenceError outside EXPAND_SCHEDULE; else it completes and writes W, WV, T and PHASE only: WV from H, T = 0, and W the schedule of the bytes of block BLKIDX of the padded stream, 0 from index `rounds` on. -/
def Obligations.ExpandWritesSchedule : Prop :=
  ∀ s : State,
    (s.phase = .error → exec .expand s = .next s) ∧
    (s.phase ≠ .error → s.phase ≠ .expandSchedule → exec .expand s = .next (raiseError .sequenceError s)) ∧
    (s.phase = .expandSchedule →
      ∃ t, exec .expand s = .next t ∧
        t = { s with w := t.w, wv := s.h, t := 0, phase := .compress } ∧
        (∀ block : List Byte, block.length = s.cfg.blockBytes →
          (∀ k, k < s.cfg.blockBytes →
            s.blkidx.toNat * s.cfg.blockBytes + k < s.padlen.toNat ∧
            padAt s (s.blkidx.toNat * s.cfg.blockBytes + k) = block[k]?) →
          ∀ i : Fin 80, t.w[i] = if i.val < s.cfg.rounds then (expand s.cfg block).getD i.val 0 else 0))

/-- R144: ROUND in every case.  Dropped in ERROR; SequenceError outside COMPRESS or when every round has run; else it completes, the working variables become those of compress_round with W[T] and K[T], T advances by one, and nothing else changes, H included. -/
def Obligations.RoundRunsOneRound : Prop :=
  ∀ s : State,
    (s.phase = .error → exec .round s = .next s) ∧
    (s.phase ≠ .error → s.phase ≠ .compress → exec .round s = .next (raiseError .sequenceError s)) ∧
    (s.phase = .compress → s.t.toNat = s.cfg.rounds → exec .round s = .next (raiseError .sequenceError s)) ∧
    (∀ i : Fin 80, s.phase = .compress → s.t.toNat = i.val → s.t.toNat < s.cfg.rounds →
      ∃ t, exec .round s = .next t ∧
        t = { s with wv := t.wv, t := t.t } ∧ t.t.toNat = s.t.toNat + 1 ∧
        t.wv = compressRound s.cfg s.wv s.w[i] (s.cfg.roundConstants.getD i.val 0))

/-- With T above `rounds`, which no state of a run has (R45 item 5), ROUND in COMPRESS stops by name: the model's choice (assumption 7). -/
def Obligations.RoundPastLastRoundFaults : Prop :=
  ∀ s : State, s.phase = .compress → s.cfg.rounds < s.t.toNat →
    exec .round s = .fault (.roundIndexOutOfRange .round)

/-- R145: FOLD in every case.  Dropped in ERROR; SequenceError outside COMPRESS or before the last round has run; else H[j] becomes (H[j] + WV[j]) mod 2^w, BLKIDX advances, and the phase is EXPAND_SCHEDULE for a further block and FINALIZE, with the digest, after the last.  BLKIDX < NBLK in every state of a run (R45 item 6). -/
def Obligations.FoldMergesTheBlock : Prop :=
  ∀ s : State,
    (s.phase = .error → exec .fold s = .next s) ∧
    (s.phase ≠ .error → s.phase ≠ .compress → exec .fold s = .next (raiseError .sequenceError s)) ∧
    (s.phase = .compress → s.t.toNat ≠ s.cfg.rounds → exec .fold s = .next (raiseError .sequenceError s)) ∧
    (s.phase = .compress → s.t.toNat = s.cfg.rounds → s.blkidx.toNat < s.nblk.toNat →
      ∃ t, exec .fold s = .next t ∧
        (∀ j : Fin 8, t.h[j].toNat = (s.h[j].toNat + s.wv[j].toNat) % 2 ^ s.cfg.wordBits) ∧
        t.blkidx.toNat = s.blkidx.toNat + 1 ∧
        (s.blkidx.toNat + 1 < s.nblk.toNat →
          t = { s with h := t.h, blkidx := t.blkidx, phase := .expandSchedule }) ∧
        (s.blkidx.toNat + 1 = s.nblk.toNat →
          EntersFinalize s.cfg t.h s t { s with h := t.h, blkidx := t.blkidx }))

/-- R146: COMPRESS in every case.  Dropped in ERROR; SequenceError outside COMPRESS; else, at any T from 0 to rounds, it completes in the very state that the remaining ROUNDs followed by FOLD reach. -/
def Obligations.CompressIsRemainingRoundsThenFold : Prop :=
  ∀ s : State,
    (s.phase = .error → exec .compress s = .next s) ∧
    (s.phase ≠ .error → s.phase ≠ .compress → exec .compress s = .next (raiseError .sequenceError s)) ∧
    (s.phase = .compress → s.t.toNat ≤ s.cfg.rounds →
      ∃ t, exec .compress s = .next t ∧
        runCommands (List.replicate (s.cfg.rounds - s.t.toNat) .round ++ [.fold]) s = .next t ∧
        t.t.toNat = s.cfg.rounds)

/-- R142, R146, R147: EXPAND followed by any number of ROUNDs and COMPRESS, or by every ROUND and FOLD, leaves in H the compress_block of the current block and the H before. -/
def Obligations.SteppedBlockIsCompressBlock : Prop :=
  ∀ (s : State) (n : Nat), s.phase = .expandSchedule → n ≤ s.cfg.rounds →
    ∃ t, runCommands (.expand :: (List.replicate n .round ++ [.compress])) s = .next t ∧
      runCommands (.expand :: (List.replicate s.cfg.rounds .round ++ [.fold])) s = .next t ∧
      t.h = compressBlock s.cfg s.currentBlock s.h

/-- R158: FORMAT in every case.  Dropped in ERROR; SequenceError in IDLE; else it writes the characters of H into DIGEST, DLEN, and DV, which is 1 only in FINALIZE, and nothing else, PHASE included. -/
def Obligations.FormatShowsHashState : Prop :=
  ∀ s : State,
    (s.phase = .error → exec .format s = .next s) ∧
    (s.phase = .idle → exec .format s = .next (raiseError .sequenceError s)) ∧
    (s.phase ≠ .error → s.phase ≠ .idle →
      ∃ t, exec .format s = .next t ∧
        t = { s with digest := t.digest, dlen := t.dlen, dv := decide (s.phase = .finalize) } ∧
        t.dlen.toNat = s.cfg.digestChars ∧ DigestShows s.cfg s.h s t)

/-- R148, R159: under the host's duties, HASH v with a supported variant completes from every state, in every phase, in FINALIZE with DV = 1, and DIGEST holds hash(message, cfg) of the function rule.  MSG, MSGLEN, BUSY and the model's own fields are unchanged, and so is PADBUF from the new PADLEN on. -/
def Obligations.HashComputesTheDigest : Prop :=
  ∀ (s : State) (v : Nat) (x : Variant) (m : List Byte),
    (v = 0 ∧ x = .narrow) ∨ (v = 1 ∧ x = .wide) → s.holdsMessage (x.cfg s.constants) m →
    ∃ t d, exec (.hash v) s = .next t ∧ hashMessage (x.cfg s.constants) m = .ok d ∧
      d.length = (x.cfg s.constants).digestChars ∧
      (∀ k, k < (x.cfg s.constants).digestChars → digestAt t k = d[k]?) ∧
      (∀ k, (x.cfg s.constants).digestChars ≤ k → k < 128 → digestAt t k = some 0) ∧
      t.phase = .finalize ∧ t.variant = x ∧ t.err = .noError ∧ t.dv = true ∧
      t.dlen.toNat = (x.cfg s.constants).digestChars ∧ t.t.toNat = (x.cfg s.constants).rounds ∧
      t.nblk.toNat = blocksOf (x.cfg s.constants) m.length ∧ t.blkidx = t.nblk ∧
      t.padlen.toNat = (x.cfg s.constants).blockBytes * blocksOf (x.cfg s.constants) m.length ∧
      (∀ a, t.padlen.toNat ≤ a → padAt t a = padAt s a) ∧
      t.busy = s.busy ∧ t.msg = s.msg ∧ t.msglen = s.msglen ∧ t.msgCap = s.msgCap ∧ t.constants = s.constants ∧
      t.draws = s.draws ∧ t.host = s.host ∧ t.rdata = s.rdata

/-- The errors and model faults of HASH (R159, R171): an unsupported code raises UnsupportedVariant with no other change; a too-long message raises MessageTooLong with INIT's effects kept, before the model faults; and the two model faults record HASH. -/
def Obligations.HashErrorsAndFaults : Prop :=
  (∀ (s : State) (v : Nat), v = 2 ∨ v = 3 →
    exec (.hash v) s = .next (raiseError .unsupportedVariant s)) ∧
  (∀ (s : State) (v : Nat) (x : Variant), (v = 0 ∧ x = .narrow) ∨ (v = 1 ∧ x = .wide) →
    (2 ^ (x.cfg s.constants).lengthFieldBits ≤ 8 * s.msglen.toNat →
      exec (.hash v) s = .next (raiseError .messageTooLong (beginRun x s))) ∧
    (8 * s.msglen.toNat < 2 ^ (x.cfg s.constants).lengthFieldBits → s.msgCap.val < s.msglen.toNat →
      exec (.hash v) s = .fault (.messageOverCapacity (.hash v))) ∧
    (8 * s.msglen.toNat < 2 ^ (x.cfg s.constants).lengthFieldBits → s.msglen.toNat ≤ s.msgCap.val →
      (∃ a, a < s.msglen.toNat ∧ msgAt s a = none) →
      exec (.hash v) s = .fault (.unwrittenMessageByte (.hash v))))

/-! Whole runs. -/

/-- R161: one HASH, the run stepped with COMPRESS, and the run stepped round by round reach the same state, FINALIZE with the digest of the function rule. -/
def Obligations.SteppedRunsEqualHash : Prop :=
  ∀ (s : State) (v : Nat) (x : Variant) (m : List Byte),
    (v = 0 ∧ x = .narrow) ∨ (v = 1 ∧ x = .wide) → s.holdsMessage (x.cfg s.constants) m →
    ∃ t d, exec (.hash v) s = .next t ∧
      runCommands ([.init v, .pad, .parse] ++
        (List.replicate (blocksOf (x.cfg s.constants) m.length) [Instr.expand, .compress]).flatten) s = .next t ∧
      runCommands ([.init v, .pad, .parse] ++
        (List.replicate (blocksOf (x.cfg s.constants) m.length)
          (Instr.expand :: (List.replicate (x.cfg s.constants).rounds .round ++ [.fold]))).flatten) s = .next t ∧
      t.phase = .finalize ∧ hashMessage (x.cfg s.constants) m = .ok d ∧
      ∀ k, k < (x.cfg s.constants).digestChars → digestAt t k = d[k]?

/-- R45: the invariant holds right after reset, whatever the parameters of R10 and R97. -/
def Obligations.InvariantHoldsAtReset : Prop :=
  Inv State.reset ∧ ∀ msgCap constants, Inv (State.resetWith msgCap constants)

/-- R45: every step keeps the invariant, whatever the host does. -/
def Obligations.StepKeepsInvariant : Prop :=
  ∀ s t : State, Inv s → step s = .next t → Inv t

/-- R163: nothing of an earlier run reaches the result of HASH.  Two states that agree on MSGLEN, the message bytes and the parameters MSG_CAP and constants, and on nothing else, give the same result. -/
def Obligations.NoHiddenStateAcrossRuns : Prop :=
  ∀ (v : Nat) (s₁ s₂ t₁ : State), v < 2 → s₁.msglen = s₂.msglen → s₁.msgCap = s₂.msgCap →
    s₁.constants = s₂.constants →
    (∀ a, a < s₁.msglen.toNat → msgAt s₁ a = msgAt s₂ a) → exec (.hash v) s₁ = .next t₁ →
    ∃ t₂, exec (.hash v) s₂ = .next t₂ ∧
      t₂.phase = t₁.phase ∧ t₂.variant = t₁.variant ∧ t₂.err = t₁.err ∧ t₂.dv = t₁.dv ∧ t₂.t = t₁.t ∧
      t₂.blkidx = t₁.blkidx ∧ t₂.nblk = t₁.nblk ∧ t₂.padlen = t₁.padlen ∧ t₂.dlen = t₁.dlen ∧
      t₂.h = t₁.h ∧ t₂.wv = t₁.wv ∧ t₂.w = t₁.w ∧
      (∀ k, k < 128 → digestAt t₂ k = digestAt t₁ k) ∧
      (∀ a, a < t₁.padlen.toNat → padAt t₂ a = padAt t₁ a)

/-- R72, with R32 and R41: no command writes MSG or MSGLEN, and no command but PAD and HASH reads them, so a host write to either after PAD changes the outcome of no later command of the run but in those two fields. -/
def Obligations.MessageIsReadOnlyByPad : Prop :=
  (∀ (i : Instr) (s t : State), exec i s = .next t → t.msg = s.msg ∧ t.msglen = s.msglen) ∧
  (∀ (i : Instr) (s : State) (m : Memory) (n : BitVec 64), i ≠ .pad → (∀ v, i ≠ .hash v) →
    exec i (withMessage m n s) = mapNext (withMessage m n) (exec i s))

/-- R21 to R23, R27 to R37, R41 to R43: each register and memory is written only by the commands its rule names, by a raise where its rule names it, and by HASH, which performs them.  No command writes BUSY, MSG or MSGLEN, nor the parameters. -/
def Obligations.OnlyNamedCommandsWrite : Prop :=
  ∀ (i : Instr) (s t : State), (∀ v, i ≠ .hash v) → exec i s = .next t →
    ((∀ v, i ≠ .init v) → i ≠ .fold → i ≠ .compress → t.h = s.h) ∧
    ((∀ v, i ≠ .init v) → i ≠ .expand → i ≠ .round → i ≠ .compress → t.wv = s.wv) ∧
    ((∀ v, i ≠ .init v) → i ≠ .expand → t.w = s.w) ∧
    ((∀ v, i ≠ .init v) → i ≠ .expand → i ≠ .round → i ≠ .compress → t.t = s.t) ∧
    ((∀ v, i ≠ .init v) → i ≠ .parse → i ≠ .fold → i ≠ .compress → t.blkidx = s.blkidx) ∧
    ((∀ v, i ≠ .init v) → i ≠ .parse → t.nblk = s.nblk) ∧
    ((∀ v, i ≠ .init v) → i ≠ .pad → t.padlen = s.padlen) ∧
    ((∀ v, i ≠ .init v) → t.variant = s.variant) ∧
    (i ≠ .pad → t.padbuf = s.padbuf) ∧
    (t.phase ≠ .error → i = .nop ∨ i = .round ∨ i = .format → t.phase = s.phase) ∧
    (t.phase ≠ .error → (∀ v, i ≠ .init v) → t.err = s.err) ∧
    (t.phase ≠ .error → (∀ v, i ≠ .init v) → i ≠ .format → t.phase ≠ .finalize ∨ i = .nop →
      t.dv = s.dv ∧ t.dlen = s.dlen ∧ t.digest = s.digest) ∧
    t.busy = s.busy ∧ t.msg = s.msg ∧ t.msglen = s.msglen ∧ t.msgCap = s.msgCap ∧ t.constants = s.constants

/-- R76: a step of one instance changes no other, and the steps of two instances commute. -/
def Obligations.InstancesCommute : Prop :=
  (∀ (k j : Nat) (cores after : List State), stepInstance k cores = .next after → j ≠ k →
    after[j]? = cores[j]?) ∧
  (∀ (k j : Nat) (cores a b : List State), k ≠ j →
    stepInstance k cores = .next a → stepInstance j a = .next b →
    ∃ c, stepInstance j cores = .next c ∧ stepInstance k c = .next b)

/-! The functions. -/

/-- R106, R107, R108, and the complement of R109: the word operations as numbers and bit by bit, for a word width w of 32 or 64.  That a sum of several operands is the left-to-right chain is the spec's own inference. -/
def Obligations.WordOperations : Prop :=
  ∀ w : Nat, w = 32 ∨ w = 64 →
    (∀ x y : Word, (addW w x y).toNat = (x.toNat + y.toNat) % 2 ^ w) ∧
    (∀ xs : List Word, (sumW w xs).toNat = (xs.map BitVec.toNat).sum % 2 ^ w) ∧
    (∀ (x : Word) (xs : List Word), x.toNat < 2 ^ w → sumW w (x :: xs) = xs.foldl (addW w) x) ∧
    (∀ (x : Word) (n k : Nat), x.toNat < 2 ^ w → n < w →
      (rotr w x n).toNat < 2 ^ w ∧ (k < w → (rotr w x n).getLsbD k = x.getLsbD ((k + n) % w))) ∧
    (∀ (x : Word) (n : Nat), (shr x n).toNat = x.toNat / 2 ^ n) ∧
    (∀ x : Word, x.toNat < 2 ^ w → (notW w x).toNat = 2 ^ w - 1 - x.toNat)

/-- R110 to R113, and the naming trap of R16: each bit of σ0, σ1, Σ0 and Σ1 in both variants, with the amounts written out. -/
def Obligations.MixingFunctions : Prop :=
  (∀ (c : Constants) (x : Word) (k : Nat), x.toNat < 2 ^ 32 → k < 32 →
    (sigma0 (cfgNarrow c) x).getLsbD k =
      (x.getLsbD ((k + 7) % 32) ^^ x.getLsbD ((k + 18) % 32) ^^ x.getLsbD (k + 3)) ∧
    (sigma1 (cfgNarrow c) x).getLsbD k =
      (x.getLsbD ((k + 17) % 32) ^^ x.getLsbD ((k + 19) % 32) ^^ x.getLsbD (k + 10)) ∧
    (bigSigma1 (cfgNarrow c) x).getLsbD k =
      (x.getLsbD ((k + 6) % 32) ^^ x.getLsbD ((k + 11) % 32) ^^ x.getLsbD ((k + 25) % 32)) ∧
    (bigSigma0 (cfgNarrow c) x).getLsbD k =
      (x.getLsbD ((k + 2) % 32) ^^ x.getLsbD ((k + 13) % 32) ^^ x.getLsbD ((k + 22) % 32))) ∧
  (∀ (c : Constants) (x : Word) (k : Nat), k < 64 →
    (sigma0 (cfgWide c) x).getLsbD k =
      (x.getLsbD ((k + 1) % 64) ^^ x.getLsbD ((k + 8) % 64) ^^ x.getLsbD (k + 7)) ∧
    (sigma1 (cfgWide c) x).getLsbD k =
      (x.getLsbD ((k + 19) % 64) ^^ x.getLsbD ((k + 61) % 64) ^^ x.getLsbD (k + 6)) ∧
    (bigSigma1 (cfgWide c) x).getLsbD k =
      (x.getLsbD ((k + 14) % 64) ^^ x.getLsbD ((k + 18) % 64) ^^ x.getLsbD ((k + 41) % 64)) ∧
    (bigSigma0 (cfgWide c) x).getLsbD k =
      (x.getLsbD ((k + 28) % 64) ^^ x.getLsbD ((k + 34) % 64) ^^ x.getLsbD ((k + 39) % 64)))

/-- R114, R115: Ch chooses a bit of f or g by the bit of e, and Maj is the majority of three bits; a narrow Ch keeps the upper half of its storage 0. -/
def Obligations.ChoiceAndMajority : Prop :=
  (∀ (w : Nat) (e f g : Word) (k : Nat), w = 32 ∨ w = 64 → k < w →
    (ch w e f g).getLsbD k = if e.getLsbD k then f.getLsbD k else g.getLsbD k) ∧
  (∀ e f g : Word, e.toNat < 2 ^ 32 → f.toNat < 2 ^ 32 → g.toNat < 2 ^ 32 → (ch 32 e f g).toNat < 2 ^ 32) ∧
  (∀ (a b c : Word) (k : Nat),
    (maj a b c).getLsbD k = decide (2 ≤ (a.getLsbD k).toNat + (b.getLsbD k).toNat + (c.getLsbD k).toNat))

/-- R140, R141: the eight outputs of compress_round, in both variants. -/
def Obligations.RoundFunction : Prop :=
  ∀ (v : Variant) (c : Constants) (wv : Vector Word 8) (wi ki : Word),
    (compressRound (v.cfg c) wv wi ki)[0].toNat =
      ((wv[7].toNat + (bigSigma1 (v.cfg c) wv[4]).toNat + (ch (v.cfg c).wordBits wv[4] wv[5] wv[6]).toNat +
          ki.toNat + wi.toNat) +
        ((bigSigma0 (v.cfg c) wv[0]).toNat + (maj wv[0] wv[1] wv[2]).toNat)) % 2 ^ (v.cfg c).wordBits ∧
    (compressRound (v.cfg c) wv wi ki)[4].toNat =
      (wv[3].toNat +
        (wv[7].toNat + (bigSigma1 (v.cfg c) wv[4]).toNat + (ch (v.cfg c).wordBits wv[4] wv[5] wv[6]).toNat +
          ki.toNat + wi.toNat)) % 2 ^ (v.cfg c).wordBits ∧
    (compressRound (v.cfg c) wv wi ki)[1] = wv[0] ∧ (compressRound (v.cfg c) wv wi ki)[2] = wv[1] ∧
    (compressRound (v.cfg c) wv wi ki)[3] = wv[2] ∧ (compressRound (v.cfg c) wv wi ki)[5] = wv[4] ∧
    (compressRound (v.cfg c) wv wi ki)[6] = wv[5] ∧ (compressRound (v.cfg c) wv wi ki)[7] = wv[6]

/-- R134, R135, R137: the schedule of a block of BB bytes has `rounds` words below 2^w (R137, the spec's own inference); the first 16 are its big-endian words and each further word is the recurrence of the four before it. -/
def Obligations.ScheduleRecurrence : Prop :=
  ∀ (v : Variant) (c : Constants) (block : List Byte), block.length = (v.cfg c).blockBytes →
    (expand (v.cfg c) block).length = (v.cfg c).rounds ∧
    (∀ x ∈ expand (v.cfg c) block, x.toNat < 2 ^ (v.cfg c).wordBits) ∧
    (∀ i, i < 16 → ((expand (v.cfg c) block).getD i 0).toNat =
      beNat ((block.drop (i * (v.cfg c).wordBytes)).take (v.cfg c).wordBytes)) ∧
    (∀ i, 16 ≤ i → i < (v.cfg c).rounds → ((expand (v.cfg c) block).getD i 0).toNat =
      (((expand (v.cfg c) block).getD (i - 16) 0).toNat +
        (sigma0 (v.cfg c) ((expand (v.cfg c) block).getD (i - 15) 0)).toNat +
        ((expand (v.cfg c) block).getD (i - 7) 0).toNat +
        (sigma1 (v.cfg c) ((expand (v.cfg c) block).getD (i - 2) 0)).toNat) % 2 ^ (v.cfg c).wordBits)

/-- R119: exactly which messages are too long: 2^61 bytes or more in the narrow variant, none that MSGLEN can hold in the wide one; `pad` then gives no stream. -/
def Obligations.MessageTooLongBound : Prop :=
  (∀ (c : Constants) (n : Nat), tooLong (cfgNarrow c) n = true ↔ 2 ^ 61 ≤ n) ∧
  (∀ (c : Constants) (n : Nat), tooLong (cfgWide c) n = true ↔ 2 ^ 125 ≤ n) ∧
  (∀ (c : Constants) (n : BitVec 64), tooLong (cfgWide c) n.toNat = false) ∧
  (∀ (v : Variant) (c : Constants) (m : List Byte),
    padBits (v.cfg c) m = .error .messageTooLong ↔ 2 ^ (v.cfg c).lengthFieldBits ≤ 8 * m.length)

/-- R121, the byte form the spec derives: for a message that is not too long, `pad` on bits is the message, 0x80, z zero bytes and the length field, read as bits, bit 7 of each byte first, in both variants, and that is `pad_bytes`. -/
def Obligations.PadBitsArePadBytes : Prop :=
  ∀ (v : Variant) (c : Constants) (m : List Byte), 8 * m.length < 2 ^ (v.cfg c).lengthFieldBits →
    padBits (v.cfg c) m = .ok (bitsMsbFirst (padBytes (v.cfg c) m)) ∧
    ∃ z, z < (v.cfg c).blockBytes ∧ (m.length + 1 + z) % (v.cfg c).blockBytes = (v.cfg c).targetBytes ∧
      padBytes (v.cfg c) m = m ++ [0x80] ++ List.replicate z 0 ++ toBE (v.cfg c).lengthFieldBytes (8 * m.length)

/-- R122: the padded length is the smallest multiple of BB that is at least L + 1 + LB, and the number of blocks is ⌊(L + LB) / BB⌋ + 1; the bounds of one and two blocks. -/
def Obligations.PaddedLengthIsSmallestMultiple : Prop :=
  (∀ (v : Variant) (c : Constants) (m : List Byte),
    0 < (padBytes (v.cfg c) m).length ∧
    (padBytes (v.cfg c) m).length = m.length + 1 + zeroBytes (v.cfg c) m.length + (v.cfg c).lengthFieldBytes ∧
    (padBytes (v.cfg c) m).length % (v.cfg c).blockBytes = 0 ∧
    m.length + 1 + (v.cfg c).lengthFieldBytes ≤ (padBytes (v.cfg c) m).length ∧
    (∀ q, q % (v.cfg c).blockBytes = 0 → m.length + 1 + (v.cfg c).lengthFieldBytes ≤ q →
      (padBytes (v.cfg c) m).length ≤ q) ∧
    (padBytes (v.cfg c) m).length / (v.cfg c).blockBytes = blocksOf (v.cfg c) m.length) ∧
  (∀ (c : Constants) (n : Nat), (n ≤ 55 → blocksOf (cfgNarrow c) n = 1) ∧ (56 ≤ n → n ≤ 119 → blocksOf (cfgNarrow c) n = 2)) ∧
  (∀ (c : Constants) (n : Nat), (n ≤ 111 → blocksOf (cfgWide c) n = 1) ∧ (112 ≤ n → n ≤ 239 → blocksOf (cfgWide c) n = 2))

/-- R123: the padding overhead is 9 to 72 bytes narrow and 17 to 144 bytes wide, so a PADBUF of MSG_CAP + 144 bytes holds the padded stream of any message that MSG can hold. -/
def Obligations.PaddingOverhead : Prop :=
  (∀ (c : Constants) (m : List Byte), m.length + 9 ≤ (padBytes (cfgNarrow c) m).length ∧
    (padBytes (cfgNarrow c) m).length ≤ m.length + 72) ∧
  (∀ (c : Constants) (m : List Byte), m.length + 17 ≤ (padBytes (cfgWide c) m).length ∧ (padBytes (cfgWide c) m).length ≤ m.length + 144) ∧
  (∀ (s : State) (v : Variant) (c : Constants) (m : List Byte), m.length ≤ s.msgCap.val → (padBytes (v.cfg c) m).length ≤ s.spaceSize .padbuf)

/-- R124: the properties of the padded bit string that the source lists. -/
def Obligations.PaddingProperties : Prop :=
  ∀ (v : Variant) (c : Constants) (m : List Byte) (s : List Bool), padBits (v.cfg c) m = .ok s →
    0 < s.length ∧ s.length % (v.cfg c).blockBits = 0 ∧
    s.take (8 * m.length) = bitsMsbFirst m ∧
    s[8 * m.length]? = some true ∧
    (∀ k, 8 * m.length < k → k + (v.cfg c).lengthFieldBits < s.length → s[k]? = some false) ∧
    (s.length - (v.cfg c).lengthFieldBits) % (v.cfg c).blockBits = (v.cfg c).paddingTargetBits ∧
    bitsNat (s.drop (s.length - (v.cfg c).lengthFieldBits)) = 8 * m.length

/-- R128, R129: parse_blocks fails exactly on a length that is not a multiple of block_bits, and otherwise gives the blocks, each of block_bits bits, in stream order. -/
def Obligations.ParseBlocksSlices : Prop :=
  ∀ (v : Variant) (c : Constants) (s : List Bool),
    (s.length % (v.cfg c).blockBits ≠ 0 → parseBlocks (v.cfg c) s = .error .invalidLength) ∧
    (s.length % (v.cfg c).blockBits = 0 →
      ∃ blocks, parseBlocks (v.cfg c) s = .ok blocks ∧ blocks.length = s.length / (v.cfg c).blockBits ∧
        (∀ b ∈ blocks, b.length = (v.cfg c).blockBits) ∧ blocks.flatten = s)

/-- R162: for a message whose padding spans two blocks, the state that enters block 1 is the folded state after block 0. -/
def Obligations.TwoBlockChaining : Prop :=
  ∀ (v : Variant) (c : Constants) (m : List Byte), blocksOf (v.cfg c) m.length = 2 →
    hashMessage (v.cfg c) m = .ok (formatDigest (v.cfg c)
      (compressBlock (v.cfg c) (byteBlock (v.cfg c) (padBytes (v.cfg c) m) 1)
        (compressBlock (v.cfg c) (byteBlock (v.cfg c) (padBytes (v.cfg c) m) 0) (v.cfg c).initialState)))

/-- R149: the characters of a formatted state; with R150, the spec's own inference, the length of every digest. -/
def Obligations.DigestCharacters : Prop :=
  (∀ (v : Variant) (c : Constants) (h : Vector Word 8),
    (formatDigest (v.cfg c) h).length = (v.cfg c).digestChars ∧
    ∀ k, k < (v.cfg c).digestChars → (formatDigest (v.cfg c) h)[k]? = some (digestByte (v.cfg c) h k)) ∧
  (∀ (v : Variant) (c : Constants) (m d : List Byte), hashMessage (v.cfg c) m = .ok d → d.length = (v.cfg c).wordBits / 4 * 8)

/-- R87: the big-endian encoding of an N-byte integer and its decoding are inverse, and the decoding is the weighted sum of the bytes. -/
def Obligations.BigEndianRoundTrip : Prop :=
  (∀ n x : Nat, x < 2 ^ (8 * n) → (toBE n x).length = n ∧ beNat (toBE n x) = x) ∧
  (∀ s : List Byte, toBE s.length (beNat s) = s) ∧
  (∀ s : List Byte, beNat s =
    ((List.range s.length).map fun k => (s.getD k 0).toNat * 2 ^ (8 * (s.length - 1 - k))).sum)

/-- R90, R103: the codes and the names that select a record, and that nothing else does. -/
def Obligations.VariantSelection : Prop :=
  (∀ v : Nat, (select v = some .narrow ↔ v = 0) ∧ (select v = some .wide ↔ v = 1) ∧ (select v = none ↔ 2 ≤ v)) ∧
  (∀ name : String, (selectName name = some .narrow ↔ name = "SHA-256") ∧
    (selectName name = some .wide ↔ name = "SHA-512"))

/-- R92 to R94: the scalar fields of the two records and their rotation triples, whatever the constants; with R95, the invariants of a record (that every amount lies in 1 to word_bits − 1 is the spec's own inference). -/
def Obligations.RecordInvariants : Prop :=
  (∀ c : Constants, (cfgNarrow c).wordBits = 32 ∧ (cfgNarrow c).blockBits = 512 ∧ (cfgNarrow c).rounds = 64 ∧
    (cfgNarrow c).lengthFieldBits = 64 ∧ (cfgNarrow c).paddingTargetBits = 448 ∧
    (cfgNarrow c).sched0 = ⟨7, 18, 3⟩ ∧ (cfgNarrow c).sched1 = ⟨17, 19, 10⟩ ∧
    (cfgNarrow c).comp0 = ⟨6, 11, 25⟩ ∧ (cfgNarrow c).comp1 = ⟨2, 13, 22⟩) ∧
  (∀ c : Constants, (cfgWide c).wordBits = 64 ∧ (cfgWide c).blockBits = 1024 ∧ (cfgWide c).rounds = 80 ∧
    (cfgWide c).lengthFieldBits = 128 ∧ (cfgWide c).paddingTargetBits = 896 ∧
    (cfgWide c).sched0 = ⟨1, 8, 7⟩ ∧ (cfgWide c).sched1 = ⟨19, 61, 6⟩ ∧
    (cfgWide c).comp0 = ⟨14, 18, 41⟩ ∧ (cfgWide c).comp1 = ⟨28, 34, 39⟩) ∧
  (∀ (v : Variant) (c : Constants), (v.cfg c).roundConstants.length = (v.cfg c).rounds ∧ (v.cfg c).initialState.toList.length = 8 ∧
    (∀ x ∈ (v.cfg c).roundConstants, x.toNat < 2 ^ (v.cfg c).wordBits) ∧
    (∀ x ∈ (v.cfg c).initialState.toList, x.toNat < 2 ^ (v.cfg c).wordBits) ∧
    ∀ n ∈ [(v.cfg c).sched0.a, (v.cfg c).sched0.b, (v.cfg c).sched0.c, (v.cfg c).sched1.a, (v.cfg c).sched1.b, (v.cfg c).sched1.c,
        (v.cfg c).comp0.a, (v.cfg c).comp0.b, (v.cfg c).comp0.c, (v.cfg c).comp1.a, (v.cfg c).comp1.b, (v.cfg c).comp1.c],
      1 ≤ n ∧ n ≤ (v.cfg c).wordBits - 1)

/-- R98, which the spec takes from general knowledge, for the default constants of R97, with which the core comes out of reset (assumption 4): each round constant is ⌊∛p × 2^w⌋ mod 2^w and each initial word ⌊√p × 2^w⌋ mod 2^w, for the primes in order from p = 2. -/
def Obligations.ConstantsFromPrimeRoots : Prop :=
  State.reset.constants = defaultConstants ∧
  ∀ v : Variant,
    (∀ i, i < (v.cfg defaultConstants).rounds → ∃ r : Nat,
      r ^ 3 ≤ primes.getD i 0 * 2 ^ (3 * (v.cfg defaultConstants).wordBits) ∧
      primes.getD i 0 * 2 ^ (3 * (v.cfg defaultConstants).wordBits) < (r + 1) ^ 3 ∧
      ((v.cfg defaultConstants).roundConstant i).toNat = r % 2 ^ (v.cfg defaultConstants).wordBits) ∧
    (∀ j : Fin 8, ∃ r : Nat,
      r ^ 2 ≤ primes.getD j.val 0 * 2 ^ (2 * (v.cfg defaultConstants).wordBits) ∧
      primes.getD j.val 0 * 2 ^ (2 * (v.cfg defaultConstants).wordBits) < (r + 1) ^ 2 ∧
      (v.cfg defaultConstants).initialState[j].toNat = r % 2 ^ (v.cfg defaultConstants).wordBits)
end

