-- ==== Sys2Proof/Laws/Arith.lean ====
section
/-! SUPPORT. The fields of the two configuration records, the value of each word operation as a natural number, and the lengths of the sequences the functions build. -/

namespace Sys2Proof.Machine

/-! The records (R8, R9, R92 to R94). -/

@[simp] theorem cfgNarrow_wordBits (c : Constants) : (cfgNarrow c).wordBits = 32 := rfl
@[simp] theorem cfgNarrow_blockBits (c : Constants) : (cfgNarrow c).blockBits = 512 := rfl
@[simp] theorem cfgNarrow_rounds (c : Constants) : (cfgNarrow c).rounds = 64 := rfl
@[simp] theorem cfgNarrow_lengthFieldBits (c : Constants) : (cfgNarrow c).lengthFieldBits = 64 := rfl
@[simp] theorem cfgNarrow_paddingTargetBits (c : Constants) : (cfgNarrow c).paddingTargetBits = 448 := rfl
@[simp] theorem cfgNarrow_wordBytes (c : Constants) : (cfgNarrow c).wordBytes = 4 := by simp [VariantConfig.wordBytes]
@[simp] theorem cfgNarrow_blockBytes (c : Constants) : (cfgNarrow c).blockBytes = 64 := by simp [VariantConfig.blockBytes]
@[simp] theorem cfgNarrow_lengthFieldBytes (c : Constants) : (cfgNarrow c).lengthFieldBytes = 8 := by simp [VariantConfig.lengthFieldBytes]
@[simp] theorem cfgNarrow_targetBytes (c : Constants) : (cfgNarrow c).targetBytes = 56 := by simp [VariantConfig.targetBytes]
@[simp] theorem cfgNarrow_digestChars (c : Constants) : (cfgNarrow c).digestChars = 64 := by simp [VariantConfig.digestChars]

@[simp] theorem cfgWide_wordBits (c : Constants) : (cfgWide c).wordBits = 64 := rfl
@[simp] theorem cfgWide_blockBits (c : Constants) : (cfgWide c).blockBits = 1024 := rfl
@[simp] theorem cfgWide_rounds (c : Constants) : (cfgWide c).rounds = 80 := rfl
@[simp] theorem cfgWide_lengthFieldBits (c : Constants) : (cfgWide c).lengthFieldBits = 128 := rfl
@[simp] theorem cfgWide_paddingTargetBits (c : Constants) : (cfgWide c).paddingTargetBits = 896 := rfl
@[simp] theorem cfgWide_wordBytes (c : Constants) : (cfgWide c).wordBytes = 8 := by simp [VariantConfig.wordBytes]
@[simp] theorem cfgWide_blockBytes (c : Constants) : (cfgWide c).blockBytes = 128 := by simp [VariantConfig.blockBytes]
@[simp] theorem cfgWide_lengthFieldBytes (c : Constants) : (cfgWide c).lengthFieldBytes = 16 := by simp [VariantConfig.lengthFieldBytes]
@[simp] theorem cfgWide_targetBytes (c : Constants) : (cfgWide c).targetBytes = 112 := by simp [VariantConfig.targetBytes]
@[simp] theorem cfgWide_digestChars (c : Constants) : (cfgWide c).digestChars = 128 := by simp [VariantConfig.digestChars]

@[simp] theorem cfg_of_narrow (c : Constants) : Variant.narrow.cfg c = cfgNarrow c := rfl

@[simp] theorem cfg_of_wide (c : Constants) : Variant.wide.cfg c = cfgWide c := rfl

/-- The storage of a narrow word has its value (R24). -/
@[simp] theorem toNat_storeNarrow (x : BitVec 32) : (storeNarrow x).toNat = x.toNat := by
  simp only [storeNarrow, BitVec.toNat_setWidth]
  omega

/-- A record holds one round constant for each round (R95). -/
@[simp] theorem length_roundConstants (v : Variant) (c : Constants) :
    (v.cfg c).roundConstants.length = (v.cfg c).rounds := by
  cases v <;> simp [cfgNarrow, cfgWide]

/-- Every initial word fits in `word_bits` (R95). -/
theorem initialState_lt (v : Variant) (c : Constants) (j : Fin 8) :
    (v.cfg c).initialState[j].toNat < 2 ^ (v.cfg c).wordBits := by
  cases v
  · simpa [cfgNarrow] using c.h0Narrow[j].isLt
  · exact c.h0Wide[j].isLt

/-- A word of either variant fits its 64-bit storage (R24). -/
theorem Variant.wordBits_le (v : Variant) (c : Constants) : (v.cfg c).wordBits ≤ 64 := by cases v <;> simp

/-- T can hold every round number of either variant (R28). -/
theorem Variant.rounds_lt (v : Variant) (c : Constants) : (v.cfg c).rounds < 2 ^ 7 := by cases v <;> simp

/-! Word operations (R106 to R109). -/

/-- A value below `2^w` is its own storage. -/
theorem toNat_ofNat_mod {w : Nat} (hw : w ≤ 64) (n : Nat) : (BitVec.ofNat 64 (n % 2 ^ w)).toNat = n % 2 ^ w := by
  rw [BitVec.toNat_ofNat]
  exact Nat.mod_eq_of_lt (Nat.lt_of_lt_of_le (Nat.mod_lt _ (Nat.two_pow_pos w)) (Nat.pow_le_pow_right (by decide) hw))

theorem toNat_addW {w : Nat} (hw : w ≤ 64) (x y : Word) : (addW w x y).toNat = (x.toNat + y.toNat) % 2 ^ w :=
  toNat_ofNat_mod hw _

theorem toNat_sumW {w : Nat} (hw : w ≤ 64) (xs : List Word) :
    (sumW w xs).toNat = (xs.map BitVec.toNat).sum % 2 ^ w :=
  toNat_ofNat_mod hw _

theorem toNat_rotr {w : Nat} (hw : w ≤ 64) (x : Word) (n : Nat) :
    (rotr w x n).toNat = ((x.toNat >>> n) ||| (x.toNat <<< (w - n))) % 2 ^ w :=
  toNat_ofNat_mod hw _

theorem toNat_shr (x : Word) (n : Nat) : (shr x n).toNat = x.toNat / 2 ^ n := by
  rw [shr, BitVec.toNat_ofNat]
  exact Nat.mod_eq_of_lt (Nat.lt_of_le_of_lt (Nat.div_le_self _ _) x.isLt)

/-- A sum is a word of `w` bits. -/
theorem addW_lt {w : Nat} (hw : w ≤ 64) (x y : Word) : (addW w x y).toNat < 2 ^ w := by
  rw [toNat_addW hw]; exact Nat.mod_lt _ (Nat.two_pow_pos w)

theorem sumW_lt {w : Nat} (hw : w ≤ 64) (xs : List Word) : (sumW w xs).toNat < 2 ^ w := by
  rw [toNat_sumW hw]; exact Nat.mod_lt _ (Nat.two_pow_pos w)

theorem rotr_lt {w : Nat} (hw : w ≤ 64) (x : Word) (n : Nat) : (rotr w x n).toNat < 2 ^ w := by
  rw [toNat_rotr hw]; exact Nat.mod_lt _ (Nat.two_pow_pos w)

/-! Lengths (R87, R121, R134, R137, R149). -/

@[simp] theorem length_toBE (n x : Nat) : (toBE n x).length = n := by simp [toBE]

@[simp] theorem length_byteBits (b : Byte) : (byteBits b).length = 8 := by simp [byteBits]

@[simp] theorem length_bitsMsbFirst (l : List Byte) : (bitsMsbFirst l).length = 8 * l.length := by
  induction l with
  | nil => rfl
  | cons b rest ih =>
    rw [bitsMsbFirst, List.flatMap_cons, List.length_append, length_byteBits, ← bitsMsbFirst, ih, List.length_cons]
    omega

@[simp] theorem length_bytesOfBits (n : Nat) (bits : List Bool) : (bytesOfBits n bits).length = n := by
  simp [bytesOfBits]

@[simp] theorem length_padBytes (cfg : VariantConfig) (m : List Byte) :
    (padBytes cfg m).length = m.length + 1 + zeroBytes cfg m.length + cfg.lengthFieldBytes := by
  simp [padBytes]
  omega

@[simp] theorem length_leadingWords (cfg : VariantConfig) (block : List Byte) :
    (leadingWords cfg block).length = 16 := by simp [leadingWords]

@[simp] theorem length_extendSchedule (cfg : VariantConfig) (n : Nat) :
    ∀ ws : List Word, (extendSchedule cfg n ws).length = ws.length + n := by
  induction n with
  | zero => intro ws; rfl
  | succ n ih =>
    intro ws
    rw [extendSchedule, ih]
    simp only [List.length_append, List.length_singleton]
    omega

@[simp] theorem length_wordHex (w : Nat) (x : Word) : (wordHex w x).length = w / 4 := by simp [wordHex]

@[simp] theorem length_currentBlock (s : State) : s.currentBlock.length = s.cfg.blockBytes := by
  simp [State.currentBlock]

/-- Extending a schedule keeps the words it has (R136). -/
theorem extendSchedule_prefix (cfg : VariantConfig) (n : Nat) :
    ∀ ws : List Word, ws <+: extendSchedule cfg n ws := by
  induction n with
  | zero => intro ws; exact List.prefix_refl ws
  | succ n ih => intro ws; exact (List.prefix_append ws [nextWord cfg ws]).trans (ih _)

end Sys2Proof.Machine
end

