-- ==== Sys2Proof/Laws/Memory.lean ====
section
/-! SUPPORT. The laws of the byte memories: a read after a write, the canonical form, and runs of cells. -/

namespace Sys2Proof.Machine

theorem Memory.lookup_insert_same (m : Memory) (a : Nat) (b : Byte) :
    Memory.lookup (Memory.insert m a b) a = some b := by
  induction m with
  | nil => simp [Memory.insert, Memory.lookup]
  | cons cell rest ih =>
    obtain ⟨k, c⟩ := cell
    unfold Memory.insert
    split
    · simp [Memory.lookup]
    · split
      · simp [Memory.lookup]
      · simpa [Memory.lookup, show k ≠ a by omega] using ih

theorem Memory.lookup_insert_ne (m : Memory) {a x : Nat} (b : Byte) (h : x ≠ a) :
    Memory.lookup (Memory.insert m a b) x = Memory.lookup m x := by
  induction m with
  | nil => simp [Memory.insert, Memory.lookup, h.symm]
  | cons cell rest ih =>
    obtain ⟨k, c⟩ := cell
    unfold Memory.insert
    split
    · simp [Memory.lookup, h.symm]
    · split
      · rename_i hk
        simp [Memory.lookup, h.symm, show k ≠ x by omega]
      · by_cases hx : k = x
        · simp [Memory.lookup, hx]
        · simpa [Memory.lookup, hx] using ih

theorem Memory.lookup_erase_same (m : Memory) (a : Nat) : Memory.lookup (Memory.erase m a) a = none := by
  induction m with
  | nil => rfl
  | cons cell rest ih =>
    obtain ⟨k, c⟩ := cell
    by_cases hk : k = a
    · simpa [Memory.erase, hk] using ih
    · simpa [Memory.erase, hk, Memory.lookup] using ih

theorem Memory.lookup_erase_ne (m : Memory) {a x : Nat} (h : x ≠ a) :
    Memory.lookup (Memory.erase m a) x = Memory.lookup m x := by
  induction m with
  | nil => rfl
  | cons cell rest ih =>
    obtain ⟨k, c⟩ := cell
    by_cases hk : k = a
    · simpa [Memory.erase, hk, Memory.lookup, h.symm] using ih
    · by_cases hx : k = x
      · simp [Memory.erase, Memory.lookup, hx, h]
      · simpa [Memory.erase, hk, Memory.lookup, hx] using ih

/-- A read after a write to the same address gives the byte written. -/
@[simp] theorem Memory.read_write_same (bg : Option Byte) (m : Memory) (a : Nat) (b : Byte) :
    Memory.read bg (Memory.write bg m a b) a = some b := by
  unfold Memory.write
  split
  · rename_i h
    simp [Memory.read, Memory.lookup_erase_same, h]
  · simp [Memory.read, Memory.lookup_insert_same]

/-- A write leaves every other address alone. -/
theorem Memory.read_write_ne (bg : Option Byte) (m : Memory) {a x : Nat} (b : Byte) (h : x ≠ a) :
    Memory.read bg (Memory.write bg m a b) x = Memory.read bg m x := by
  unfold Memory.write
  split
  · simp [Memory.read, Memory.lookup_erase_ne m h]
  · simp [Memory.read, Memory.lookup_insert_ne m b h]

/-- What an address reads as after a run of bytes is written: the byte of the run, or what it read as before. -/
theorem Memory.read_writeBytes (bg : Option Byte) (bytes : List Byte) :
    ∀ (m : Memory) (a x : Nat), Memory.read bg (Memory.writeBytes bg m a bytes) x =
      if a ≤ x ∧ x < a + bytes.length then bytes[x - a]? else Memory.read bg m x := by
  induction bytes with
  | nil =>
    intro m a x
    simp only [Memory.writeBytes, List.length_nil]
    rw [if_neg (by omega)]
  | cons b rest ih =>
    intro m a x
    rw [Memory.writeBytes, ih]
    by_cases hx : x = a
    · subst hx
      rw [if_neg (by omega), Memory.read_write_same, if_pos (by simp)]
      simp
    · rw [Memory.read_write_ne bg m b hx]
      by_cases hin : a + 1 ≤ x ∧ x < a + 1 + rest.length
      · rw [if_pos hin, if_pos (by simp only [List.length_cons]; omega)]
        obtain ⟨d, rfl⟩ : ∃ d, x = a + 1 + d := ⟨x - (a + 1), by omega⟩
        rw [show a + 1 + d - (a + 1) = d by omega, show a + 1 + d - a = d + 1 by omega]
        simp
      · rw [if_neg hin, if_neg (by simp only [List.length_cons]; omega)]

/-- Outside the run a write of bytes changes no byte. -/
theorem Memory.read_writeBytes_outside (bg : Option Byte) (bytes : List Byte) (m : Memory) {a x : Nat}
    (h : x < a ∨ a + bytes.length ≤ x) :
    Memory.read bg (Memory.writeBytes bg m a bytes) x = Memory.read bg m x := by
  rw [Memory.read_writeBytes, if_neg (by omega)]

/-- When `readBytes` succeeds, and what it gives. -/
theorem Memory.readBytes_eq_some_iff (bg : Option Byte) (m : Memory) (n : Nat) :
    ∀ (a : Nat) (l : List Byte), Memory.readBytes bg m a n = some l ↔
      l.length = n ∧ ∀ k, k < n → Memory.read bg m (a + k) = l[k]? := by
  induction n with
  | zero =>
    intro a l
    cases l <;> simp [Memory.readBytes]
  | succ n ih =>
    intro a l
    rw [Memory.readBytes]
    cases hb : Memory.read bg m a with
    | none =>
      simp only [reduceCtorEq, false_iff, not_and]
      intro hl h
      have h0 := h 0 (by omega)
      rw [Nat.add_zero, hb] at h0
      have : l[0]? ≠ none := by
        rw [Ne, List.getElem?_eq_none_iff]; omega
      exact this h0.symm
    | some b =>
      cases hr : Memory.readBytes bg m (a + 1) n with
      | none =>
        simp only [reduceCtorEq, false_iff, not_and]
        intro hl h
        cases l with
        | nil => simp at hl
        | cons c rest =>
          have := (ih (a + 1) rest).2 ⟨by simpa using hl, fun k hk => by
            have := h (k + 1) (by omega)
            rwa [show a + (k + 1) = a + 1 + k by omega, List.getElem?_cons_succ] at this⟩
          rw [hr] at this
          exact absurd this (by simp)
      | some rest =>
        obtain ⟨hlen, hcells⟩ := (ih (a + 1) rest).1 hr
        simp only [Option.some.injEq]
        constructor
        · rintro rfl
          refine ⟨by simp [hlen], fun k hk => ?_⟩
          cases k with
          | zero => simpa using hb
          | succ k =>
            rw [show a + (k + 1) = a + 1 + k by omega, List.getElem?_cons_succ]
            exact hcells k (by omega)
        · rintro ⟨hl, h⟩
          cases l with
          | nil => simp at hl
          | cons c rest' =>
            have h0 := h 0 (by omega)
            rw [Nat.add_zero, hb] at h0
            have hc : b = c := by simpa using h0
            subst hc
            congr 1
            apply List.ext_getElem?
            intro k
            by_cases hk : k < n
            · rw [← hcells k hk]
              have := h (k + 1) (by omega)
              rwa [show a + (k + 1) = a + 1 + k by omega, List.getElem?_cons_succ] at this
            · rw [List.getElem?_eq_none (by omega), List.getElem?_eq_none (by simp at hl; omega)]

theorem Memory.risingFrom_mono {a b : Nat} {m : Memory} (h : Memory.risingFrom b m = true) (hab : a ≤ b) :
    Memory.risingFrom a m = true := by
  cases m with
  | nil => rfl
  | cons cell rest =>
    obtain ⟨k, c⟩ := cell
    simp only [Memory.risingFrom, Bool.and_eq_true, decide_eq_true_eq] at h ⊢
    exact ⟨by omega, h.2⟩

theorem Memory.risingFrom_insert (b : Byte) {m : Memory} :
    ∀ {lo a : Nat}, Memory.risingFrom lo m = true → lo ≤ a →
      Memory.risingFrom lo (Memory.insert m a b) = true := by
  induction m with
  | nil =>
    intro lo a _ hlo
    simpa [Memory.insert, Memory.risingFrom] using hlo
  | cons cell rest ih =>
    obtain ⟨k, c⟩ := cell
    intro lo a h hlo
    simp only [Memory.risingFrom, Bool.and_eq_true, decide_eq_true_eq] at h
    unfold Memory.insert
    split
    · simp only [Memory.risingFrom, Bool.and_eq_true, decide_eq_true_eq]
      exact ⟨hlo, by omega, h.2⟩
    · split
      · rename_i _ hk
        subst hk
        simpa [Memory.risingFrom] using h
      · simp only [Memory.risingFrom, Bool.and_eq_true, decide_eq_true_eq]
        exact ⟨h.1, ih h.2 (by omega)⟩

theorem Memory.risingFrom_erase (a : Nat) {m : Memory} :
    ∀ {lo : Nat}, Memory.risingFrom lo m = true → Memory.risingFrom lo (Memory.erase m a) = true := by
  induction m with
  | nil => intro lo _; rfl
  | cons cell rest ih =>
    obtain ⟨k, c⟩ := cell
    intro lo h
    simp only [Memory.risingFrom, Bool.and_eq_true, decide_eq_true_eq] at h
    by_cases hk : k = a
    · have := ih (Memory.risingFrom_mono h.2 (show lo ≤ k + 1 by omega))
      simpa [Memory.erase, hk] using this
    · rw [Memory.erase, List.filter_cons_of_pos (by simpa using hk)]
      simp only [Memory.risingFrom, Bool.and_eq_true, decide_eq_true_eq]
      exact ⟨h.1, ih h.2⟩

theorem Memory.mem_insert {m : Memory} {a : Nat} {b : Byte} {cell : Host.Cell}
    (h : cell ∈ Memory.insert m a b) : cell = (a, b) ∨ cell ∈ m := by
  induction m with
  | nil => exact .inl (by simpa [Memory.insert] using h)
  | cons head rest ih =>
    obtain ⟨k, c⟩ := head
    unfold Memory.insert at h
    split at h
    · rcases List.mem_cons.1 h with rfl | h
      · exact .inl rfl
      · exact .inr h
    · split at h
      · rcases List.mem_cons.1 h with rfl | h
        · exact .inl rfl
        · exact .inr (List.mem_cons_of_mem _ h)
      · rcases List.mem_cons.1 h with rfl | h
        · exact .inr (by simp)
        · rcases ih h with rfl | h
          · exact .inl rfl
          · exact .inr (List.mem_cons_of_mem _ h)

/-- A write lists no cell but the one it writes. -/
theorem Memory.mem_write {bg : Option Byte} {m : Memory} {a : Nat} {b : Byte} {cell : Host.Cell}
    (h : cell ∈ Memory.write bg m a b) : cell = (a, b) ∨ cell ∈ m := by
  unfold Memory.write at h
  split at h
  · exact .inr (List.mem_filter.1 h).1
  · exact Memory.mem_insert h

/-- A write keeps the canonical form. -/
theorem Memory.wf_write {bg : Option Byte} {m : Memory} (a : Nat) (b : Byte) (h : Memory.wf bg m = true) :
    Memory.wf bg (Memory.write bg m a b) = true := by
  simp only [Memory.wf, Bool.and_eq_true, List.all_eq_true, decide_eq_true_eq] at h ⊢
  unfold Memory.write
  split
  · exact ⟨Memory.risingFrom_erase a h.1, fun cell hc => h.2 cell (List.mem_filter.1 hc).1⟩
  · rename_i hb
    refine ⟨Memory.risingFrom_insert b h.1 (Nat.zero_le a), fun cell hc => ?_⟩
    rcases Memory.mem_insert hc with rfl | hc
    · exact hb
    · exact h.2 cell hc

/-- A write of bytes keeps the canonical form. -/
theorem Memory.wf_writeBytes {bg : Option Byte} (bytes : List Byte) :
    ∀ {m : Memory} (a : Nat), Memory.wf bg m = true → Memory.wf bg (Memory.writeBytes bg m a bytes) = true := by
  induction bytes with
  | nil => intro m a h; exact h
  | cons b rest ih => intro m a h; exact ih (a + 1) (Memory.wf_write a b h)

/-- A write of bytes lists no cell outside the run it writes. -/
theorem Memory.mem_writeBytes {bg : Option Byte} (bytes : List Byte) :
    ∀ {m : Memory} {a : Nat} {cell : Host.Cell}, cell ∈ Memory.writeBytes bg m a bytes →
      (a ≤ cell.1 ∧ cell.1 < a + bytes.length) ∨ cell ∈ m := by
  induction bytes with
  | nil => intro m a cell h; exact .inr h
  | cons b rest ih =>
    intro m a cell h
    rcases ih h with h | h
    · exact .inl ⟨by omega, by simp only [List.length_cons]; omega⟩
    · rcases Memory.mem_write h with rfl | h
      · exact .inl ⟨Nat.le_refl _, by simp⟩
      · exact .inr h

/-- The empty list is canonical: the memories at reset are (R44). -/
@[simp] theorem Memory.wf_nil (bg : Option Byte) : Memory.wf bg [] = true := rfl

end Sys2Proof.Machine
end

