-- ==== Sys2Proof/Laws/State.lean ====
section
/-! SUPPORT. One lemma for each field of State and each operation that updates it, true by rfl, so that no proof unfolds a record update. -/

namespace Sys2Proof.Machine

/-! Raising an error (R168). -/

@[simp] theorem raiseError_phase (e : ErrKind) (s : State) : (raiseError e s).phase = .error := rfl
@[simp] theorem raiseError_variant (e : ErrKind) (s : State) : (raiseError e s).variant = s.variant := rfl
@[simp] theorem raiseError_err (e : ErrKind) (s : State) : (raiseError e s).err = e := rfl
@[simp] theorem raiseError_dv (e : ErrKind) (s : State) : (raiseError e s).dv = false := rfl
@[simp] theorem raiseError_busy (e : ErrKind) (s : State) : (raiseError e s).busy = s.busy := rfl
@[simp] theorem raiseError_t (e : ErrKind) (s : State) : (raiseError e s).t = s.t := rfl
@[simp] theorem raiseError_blkidx (e : ErrKind) (s : State) : (raiseError e s).blkidx = s.blkidx := rfl
@[simp] theorem raiseError_nblk (e : ErrKind) (s : State) : (raiseError e s).nblk = s.nblk := rfl
@[simp] theorem raiseError_padlen (e : ErrKind) (s : State) : (raiseError e s).padlen = s.padlen := rfl
@[simp] theorem raiseError_msglen (e : ErrKind) (s : State) : (raiseError e s).msglen = s.msglen := rfl
@[simp] theorem raiseError_dlen (e : ErrKind) (s : State) : (raiseError e s).dlen = 0 := rfl
@[simp] theorem raiseError_h (e : ErrKind) (s : State) : (raiseError e s).h = s.h := rfl
@[simp] theorem raiseError_wv (e : ErrKind) (s : State) : (raiseError e s).wv = s.wv := rfl
@[simp] theorem raiseError_w (e : ErrKind) (s : State) : (raiseError e s).w = s.w := rfl
@[simp] theorem raiseError_msg (e : ErrKind) (s : State) : (raiseError e s).msg = s.msg := rfl
@[simp] theorem raiseError_padbuf (e : ErrKind) (s : State) : (raiseError e s).padbuf = s.padbuf := rfl
@[simp] theorem raiseError_digest (e : ErrKind) (s : State) : (raiseError e s).digest = s.writeDigest blankDigest := by rw [raiseError]
@[simp] theorem raiseError_msgCap (e : ErrKind) (s : State) : (raiseError e s).msgCap = s.msgCap := rfl
@[simp] theorem raiseError_constants (e : ErrKind) (s : State) : (raiseError e s).constants = s.constants := rfl
@[simp] theorem raiseError_draws (e : ErrKind) (s : State) : (raiseError e s).draws = s.draws := rfl
@[simp] theorem raiseError_host (e : ErrKind) (s : State) : (raiseError e s).host = s.host := rfl
@[simp] theorem raiseError_rdata (e : ErrKind) (s : State) : (raiseError e s).rdata = s.rdata := rfl
@[simp] theorem raiseError_cfg (e : ErrKind) (s : State) : (raiseError e s).cfg = s.cfg := rfl

/-! Starting a run (R157). -/

@[simp] theorem beginRun_phase (v : Variant) (s : State) : (beginRun v s).phase = .preprocess := rfl
@[simp] theorem beginRun_variant (v : Variant) (s : State) : (beginRun v s).variant = v := rfl
@[simp] theorem beginRun_err (v : Variant) (s : State) : (beginRun v s).err = .noError := rfl
@[simp] theorem beginRun_dv (v : Variant) (s : State) : (beginRun v s).dv = false := rfl
@[simp] theorem beginRun_busy (v : Variant) (s : State) : (beginRun v s).busy = s.busy := rfl
@[simp] theorem beginRun_t (v : Variant) (s : State) : (beginRun v s).t = 0 := rfl
@[simp] theorem beginRun_blkidx (v : Variant) (s : State) : (beginRun v s).blkidx = 0 := rfl
@[simp] theorem beginRun_nblk (v : Variant) (s : State) : (beginRun v s).nblk = 0 := rfl
@[simp] theorem beginRun_padlen (v : Variant) (s : State) : (beginRun v s).padlen = 0 := rfl
@[simp] theorem beginRun_msglen (v : Variant) (s : State) : (beginRun v s).msglen = s.msglen := rfl
@[simp] theorem beginRun_dlen (v : Variant) (s : State) : (beginRun v s).dlen = 0 := rfl
@[simp] theorem beginRun_h (v : Variant) (s : State) : (beginRun v s).h = (v.cfg s.constants).initialState := rfl
@[simp] theorem beginRun_wv (v : Variant) (s : State) : (beginRun v s).wv = Vector.replicate 8 0 := rfl
@[simp] theorem beginRun_w (v : Variant) (s : State) : (beginRun v s).w = Vector.replicate 80 0 := rfl
@[simp] theorem beginRun_msg (v : Variant) (s : State) : (beginRun v s).msg = s.msg := rfl
@[simp] theorem beginRun_padbuf (v : Variant) (s : State) : (beginRun v s).padbuf = s.padbuf := rfl
@[simp] theorem beginRun_digest (v : Variant) (s : State) : (beginRun v s).digest = s.writeDigest blankDigest := by rw [beginRun]
@[simp] theorem beginRun_msgCap (v : Variant) (s : State) : (beginRun v s).msgCap = s.msgCap := rfl
@[simp] theorem beginRun_constants (v : Variant) (s : State) : (beginRun v s).constants = s.constants := rfl
@[simp] theorem beginRun_draws (v : Variant) (s : State) : (beginRun v s).draws = s.draws := rfl
@[simp] theorem beginRun_host (v : Variant) (s : State) : (beginRun v s).host = s.host := rfl
@[simp] theorem beginRun_rdata (v : Variant) (s : State) : (beginRun v s).rdata = s.rdata := rfl

/-! Showing the hash state in DIGEST (R153, R158). -/

@[simp] theorem showDigest_phase (b : Bool) (s : State) : (showDigest b s).phase = s.phase := rfl
@[simp] theorem showDigest_variant (b : Bool) (s : State) : (showDigest b s).variant = s.variant := rfl
@[simp] theorem showDigest_err (b : Bool) (s : State) : (showDigest b s).err = s.err := rfl
@[simp] theorem showDigest_dv (b : Bool) (s : State) : (showDigest b s).dv = b := rfl
@[simp] theorem showDigest_busy (b : Bool) (s : State) : (showDigest b s).busy = s.busy := rfl
@[simp] theorem showDigest_t (b : Bool) (s : State) : (showDigest b s).t = s.t := rfl
@[simp] theorem showDigest_blkidx (b : Bool) (s : State) : (showDigest b s).blkidx = s.blkidx := rfl
@[simp] theorem showDigest_nblk (b : Bool) (s : State) : (showDigest b s).nblk = s.nblk := rfl
@[simp] theorem showDigest_padlen (b : Bool) (s : State) : (showDigest b s).padlen = s.padlen := rfl
@[simp] theorem showDigest_msglen (b : Bool) (s : State) : (showDigest b s).msglen = s.msglen := rfl
@[simp] theorem showDigest_dlen (b : Bool) (s : State) : (showDigest b s).dlen = BitVec.ofNat 8 s.cfg.digestChars := rfl
@[simp] theorem showDigest_h (b : Bool) (s : State) : (showDigest b s).h = s.h := rfl
@[simp] theorem showDigest_wv (b : Bool) (s : State) : (showDigest b s).wv = s.wv := rfl
@[simp] theorem showDigest_w (b : Bool) (s : State) : (showDigest b s).w = s.w := rfl
@[simp] theorem showDigest_msg (b : Bool) (s : State) : (showDigest b s).msg = s.msg := rfl
@[simp] theorem showDigest_padbuf (b : Bool) (s : State) : (showDigest b s).padbuf = s.padbuf := rfl
@[simp] theorem showDigest_digest (b : Bool) (s : State) : (showDigest b s).digest = s.writeDigest s.digestImage := by rw [showDigest]
@[simp] theorem showDigest_msgCap (b : Bool) (s : State) : (showDigest b s).msgCap = s.msgCap := rfl
@[simp] theorem showDigest_constants (b : Bool) (s : State) : (showDigest b s).constants = s.constants := rfl
@[simp] theorem showDigest_draws (b : Bool) (s : State) : (showDigest b s).draws = s.draws := rfl
@[simp] theorem showDigest_host (b : Bool) (s : State) : (showDigest b s).host = s.host := rfl
@[simp] theorem showDigest_rdata (b : Bool) (s : State) : (showDigest b s).rdata = s.rdata := rfl
@[simp] theorem showDigest_cfg (b : Bool) (s : State) : (showDigest b s).cfg = s.cfg := rfl

/-! The entry into FINALIZE (R153). -/

@[simp] theorem finalize_phase (s : State) : (finalize s).phase = .finalize := rfl
@[simp] theorem finalize_variant (s : State) : (finalize s).variant = s.variant := rfl
@[simp] theorem finalize_err (s : State) : (finalize s).err = s.err := rfl
@[simp] theorem finalize_dv (s : State) : (finalize s).dv = true := rfl
@[simp] theorem finalize_busy (s : State) : (finalize s).busy = s.busy := rfl
@[simp] theorem finalize_t (s : State) : (finalize s).t = s.t := rfl
@[simp] theorem finalize_blkidx (s : State) : (finalize s).blkidx = s.blkidx := rfl
@[simp] theorem finalize_nblk (s : State) : (finalize s).nblk = s.nblk := rfl
@[simp] theorem finalize_padlen (s : State) : (finalize s).padlen = s.padlen := rfl
@[simp] theorem finalize_msglen (s : State) : (finalize s).msglen = s.msglen := rfl
@[simp] theorem finalize_dlen (s : State) : (finalize s).dlen = BitVec.ofNat 8 s.cfg.digestChars := rfl
@[simp] theorem finalize_h (s : State) : (finalize s).h = s.h := rfl
@[simp] theorem finalize_wv (s : State) : (finalize s).wv = s.wv := rfl
@[simp] theorem finalize_w (s : State) : (finalize s).w = s.w := rfl
@[simp] theorem finalize_msg (s : State) : (finalize s).msg = s.msg := rfl
@[simp] theorem finalize_padbuf (s : State) : (finalize s).padbuf = s.padbuf := rfl
@[simp] theorem finalize_digest (s : State) : (finalize s).digest = s.writeDigest s.digestImage := by rw [finalize, showDigest]
@[simp] theorem finalize_msgCap (s : State) : (finalize s).msgCap = s.msgCap := rfl
@[simp] theorem finalize_constants (s : State) : (finalize s).constants = s.constants := rfl
@[simp] theorem finalize_draws (s : State) : (finalize s).draws = s.draws := rfl
@[simp] theorem finalize_host (s : State) : (finalize s).host = s.host := rfl
@[simp] theorem finalize_rdata (s : State) : (finalize s).rdata = s.rdata := rfl
@[simp] theorem finalize_cfg (s : State) : (finalize s).cfg = s.cfg := rfl

/-! PARSE's block count (R132). -/

@[simp] theorem setBlockCount_phase (s : State) : (setBlockCount s).phase = s.phase := rfl
@[simp] theorem setBlockCount_variant (s : State) : (setBlockCount s).variant = s.variant := rfl
@[simp] theorem setBlockCount_err (s : State) : (setBlockCount s).err = s.err := rfl
@[simp] theorem setBlockCount_dv (s : State) : (setBlockCount s).dv = s.dv := rfl
@[simp] theorem setBlockCount_busy (s : State) : (setBlockCount s).busy = s.busy := rfl
@[simp] theorem setBlockCount_t (s : State) : (setBlockCount s).t = s.t := rfl
@[simp] theorem setBlockCount_blkidx (s : State) : (setBlockCount s).blkidx = 0 := rfl
@[simp] theorem setBlockCount_nblk (s : State) : (setBlockCount s).nblk = BitVec.ofNat 64 s.blockCount := rfl
@[simp] theorem setBlockCount_padlen (s : State) : (setBlockCount s).padlen = s.padlen := rfl
@[simp] theorem setBlockCount_msglen (s : State) : (setBlockCount s).msglen = s.msglen := rfl
@[simp] theorem setBlockCount_dlen (s : State) : (setBlockCount s).dlen = s.dlen := rfl
@[simp] theorem setBlockCount_h (s : State) : (setBlockCount s).h = s.h := rfl
@[simp] theorem setBlockCount_wv (s : State) : (setBlockCount s).wv = s.wv := rfl
@[simp] theorem setBlockCount_w (s : State) : (setBlockCount s).w = s.w := rfl
@[simp] theorem setBlockCount_msg (s : State) : (setBlockCount s).msg = s.msg := rfl
@[simp] theorem setBlockCount_padbuf (s : State) : (setBlockCount s).padbuf = s.padbuf := rfl
@[simp] theorem setBlockCount_digest (s : State) : (setBlockCount s).digest = s.digest := rfl
@[simp] theorem setBlockCount_msgCap (s : State) : (setBlockCount s).msgCap = s.msgCap := rfl
@[simp] theorem setBlockCount_constants (s : State) : (setBlockCount s).constants = s.constants := rfl
@[simp] theorem setBlockCount_draws (s : State) : (setBlockCount s).draws = s.draws := rfl
@[simp] theorem setBlockCount_host (s : State) : (setBlockCount s).host = s.host := rfl
@[simp] theorem setBlockCount_rdata (s : State) : (setBlockCount s).rdata = s.rdata := rfl
@[simp] theorem setBlockCount_cfg (s : State) : (setBlockCount s).cfg = s.cfg := rfl

/-! One round on the registers (R144). -/

@[simp] theorem roundStep_phase (s : State) : (roundStep s).phase = s.phase := rfl
@[simp] theorem roundStep_variant (s : State) : (roundStep s).variant = s.variant := rfl
@[simp] theorem roundStep_err (s : State) : (roundStep s).err = s.err := rfl
@[simp] theorem roundStep_dv (s : State) : (roundStep s).dv = s.dv := rfl
@[simp] theorem roundStep_busy (s : State) : (roundStep s).busy = s.busy := rfl
@[simp] theorem roundStep_t (s : State) : (roundStep s).t = s.t + 1 := rfl
@[simp] theorem roundStep_blkidx (s : State) : (roundStep s).blkidx = s.blkidx := rfl
@[simp] theorem roundStep_nblk (s : State) : (roundStep s).nblk = s.nblk := rfl
@[simp] theorem roundStep_padlen (s : State) : (roundStep s).padlen = s.padlen := rfl
@[simp] theorem roundStep_msglen (s : State) : (roundStep s).msglen = s.msglen := rfl
@[simp] theorem roundStep_dlen (s : State) : (roundStep s).dlen = s.dlen := rfl
@[simp] theorem roundStep_h (s : State) : (roundStep s).h = s.h := rfl
@[simp] theorem roundStep_wv (s : State) : (roundStep s).wv = compressRound s.cfg s.wv (s.schedule.getD s.t.toNat 0) (s.cfg.roundConstant s.t.toNat) := rfl
@[simp] theorem roundStep_w (s : State) : (roundStep s).w = s.w := rfl
@[simp] theorem roundStep_msg (s : State) : (roundStep s).msg = s.msg := rfl
@[simp] theorem roundStep_padbuf (s : State) : (roundStep s).padbuf = s.padbuf := rfl
@[simp] theorem roundStep_digest (s : State) : (roundStep s).digest = s.digest := rfl
@[simp] theorem roundStep_msgCap (s : State) : (roundStep s).msgCap = s.msgCap := rfl
@[simp] theorem roundStep_constants (s : State) : (roundStep s).constants = s.constants := rfl
@[simp] theorem roundStep_draws (s : State) : (roundStep s).draws = s.draws := rfl
@[simp] theorem roundStep_host (s : State) : (roundStep s).host = s.host := rfl
@[simp] theorem roundStep_rdata (s : State) : (roundStep s).rdata = s.rdata := rfl
@[simp] theorem roundStep_cfg (s : State) : (roundStep s).cfg = s.cfg := rfl

/-! The fold (R145). -/

@[simp] theorem mergeBlock_phase (s : State) : (mergeBlock s).phase = s.phase := rfl
@[simp] theorem mergeBlock_variant (s : State) : (mergeBlock s).variant = s.variant := rfl
@[simp] theorem mergeBlock_err (s : State) : (mergeBlock s).err = s.err := rfl
@[simp] theorem mergeBlock_dv (s : State) : (mergeBlock s).dv = s.dv := rfl
@[simp] theorem mergeBlock_busy (s : State) : (mergeBlock s).busy = s.busy := rfl
@[simp] theorem mergeBlock_t (s : State) : (mergeBlock s).t = s.t := rfl
@[simp] theorem mergeBlock_blkidx (s : State) : (mergeBlock s).blkidx = s.blkidx + 1 := rfl
@[simp] theorem mergeBlock_nblk (s : State) : (mergeBlock s).nblk = s.nblk := rfl
@[simp] theorem mergeBlock_padlen (s : State) : (mergeBlock s).padlen = s.padlen := rfl
@[simp] theorem mergeBlock_msglen (s : State) : (mergeBlock s).msglen = s.msglen := rfl
@[simp] theorem mergeBlock_dlen (s : State) : (mergeBlock s).dlen = s.dlen := rfl
@[simp] theorem mergeBlock_h (s : State) : (mergeBlock s).h = foldWords s.cfg s.h s.wv := rfl
@[simp] theorem mergeBlock_wv (s : State) : (mergeBlock s).wv = s.wv := rfl
@[simp] theorem mergeBlock_w (s : State) : (mergeBlock s).w = s.w := rfl
@[simp] theorem mergeBlock_msg (s : State) : (mergeBlock s).msg = s.msg := rfl
@[simp] theorem mergeBlock_padbuf (s : State) : (mergeBlock s).padbuf = s.padbuf := rfl
@[simp] theorem mergeBlock_digest (s : State) : (mergeBlock s).digest = s.digest := rfl
@[simp] theorem mergeBlock_msgCap (s : State) : (mergeBlock s).msgCap = s.msgCap := rfl
@[simp] theorem mergeBlock_constants (s : State) : (mergeBlock s).constants = s.constants := rfl
@[simp] theorem mergeBlock_draws (s : State) : (mergeBlock s).draws = s.draws := rfl
@[simp] theorem mergeBlock_host (s : State) : (mergeBlock s).host = s.host := rfl
@[simp] theorem mergeBlock_rdata (s : State) : (mergeBlock s).rdata = s.rdata := rfl
@[simp] theorem mergeBlock_cfg (s : State) : (mergeBlock s).cfg = s.cfg := rfl

/-! The remaining rounds of a block (R146). -/

@[simp] theorem finishRounds_phase (s : State) : (finishRounds s).phase = s.phase := rfl
@[simp] theorem finishRounds_variant (s : State) : (finishRounds s).variant = s.variant := rfl
@[simp] theorem finishRounds_err (s : State) : (finishRounds s).err = s.err := rfl
@[simp] theorem finishRounds_dv (s : State) : (finishRounds s).dv = s.dv := rfl
@[simp] theorem finishRounds_busy (s : State) : (finishRounds s).busy = s.busy := rfl
@[simp] theorem finishRounds_t (s : State) : (finishRounds s).t = BitVec.ofNat 7 s.cfg.rounds := rfl
@[simp] theorem finishRounds_blkidx (s : State) : (finishRounds s).blkidx = s.blkidx := rfl
@[simp] theorem finishRounds_nblk (s : State) : (finishRounds s).nblk = s.nblk := rfl
@[simp] theorem finishRounds_padlen (s : State) : (finishRounds s).padlen = s.padlen := rfl
@[simp] theorem finishRounds_msglen (s : State) : (finishRounds s).msglen = s.msglen := rfl
@[simp] theorem finishRounds_dlen (s : State) : (finishRounds s).dlen = s.dlen := rfl
@[simp] theorem finishRounds_h (s : State) : (finishRounds s).h = s.h := rfl
@[simp] theorem finishRounds_wv (s : State) : (finishRounds s).wv = runRounds s.cfg s.schedule (s.cfg.rounds - s.t.toNat) s.t.toNat s.wv := rfl
@[simp] theorem finishRounds_w (s : State) : (finishRounds s).w = s.w := rfl
@[simp] theorem finishRounds_msg (s : State) : (finishRounds s).msg = s.msg := rfl
@[simp] theorem finishRounds_padbuf (s : State) : (finishRounds s).padbuf = s.padbuf := rfl
@[simp] theorem finishRounds_digest (s : State) : (finishRounds s).digest = s.digest := rfl
@[simp] theorem finishRounds_msgCap (s : State) : (finishRounds s).msgCap = s.msgCap := rfl
@[simp] theorem finishRounds_constants (s : State) : (finishRounds s).constants = s.constants := rfl
@[simp] theorem finishRounds_draws (s : State) : (finishRounds s).draws = s.draws := rfl
@[simp] theorem finishRounds_host (s : State) : (finishRounds s).host = s.host := rfl
@[simp] theorem finishRounds_rdata (s : State) : (finishRounds s).rdata = s.rdata := rfl
@[simp] theorem finishRounds_cfg (s : State) : (finishRounds s).cfg = s.cfg := rfl

/-! The state after reset (R44), whatever the parameters of R10 and R97. -/

section

variable (m : Fin (Config.msgCapMax + 1)) (c : Constants)

@[simp] theorem resetWith_phase : (State.resetWith m c).phase = .idle := rfl
@[simp] theorem resetWith_variant : (State.resetWith m c).variant = .narrow := rfl
@[simp] theorem resetWith_err : (State.resetWith m c).err = .noError := rfl
@[simp] theorem resetWith_dv : (State.resetWith m c).dv = false := rfl
@[simp] theorem resetWith_busy : (State.resetWith m c).busy = false := rfl
@[simp] theorem resetWith_t : (State.resetWith m c).t = 0 := rfl
@[simp] theorem resetWith_blkidx : (State.resetWith m c).blkidx = 0 := rfl
@[simp] theorem resetWith_nblk : (State.resetWith m c).nblk = 0 := rfl
@[simp] theorem resetWith_padlen : (State.resetWith m c).padlen = 0 := rfl
@[simp] theorem resetWith_msglen : (State.resetWith m c).msglen = 0 := rfl
@[simp] theorem resetWith_dlen : (State.resetWith m c).dlen = 0 := rfl
@[simp] theorem resetWith_h : (State.resetWith m c).h = Vector.replicate 8 0 := rfl
@[simp] theorem resetWith_wv : (State.resetWith m c).wv = Vector.replicate 8 0 := rfl
@[simp] theorem resetWith_w : (State.resetWith m c).w = Vector.replicate 80 0 := rfl
@[simp] theorem resetWith_msg : (State.resetWith m c).msg = [] := rfl
@[simp] theorem resetWith_padbuf : (State.resetWith m c).padbuf = [] := rfl
@[simp] theorem resetWith_digest : (State.resetWith m c).digest = [] := rfl
@[simp] theorem resetWith_msgCap : (State.resetWith m c).msgCap = m := rfl
@[simp] theorem resetWith_constants : (State.resetWith m c).constants = c := rfl
@[simp] theorem resetWith_draws : (State.resetWith m c).draws = 0 := rfl
@[simp] theorem resetWith_host : (State.resetWith m c).host = [] := rfl
@[simp] theorem resetWith_rdata : (State.resetWith m c).rdata = none := rfl

end

/-! Reset (R183): only the model's own fields are kept. -/

@[simp] theorem resetCore_phase (s : State) : (resetCore s).phase = .idle := rfl
@[simp] theorem resetCore_variant (s : State) : (resetCore s).variant = .narrow := rfl
@[simp] theorem resetCore_err (s : State) : (resetCore s).err = .noError := rfl
@[simp] theorem resetCore_dv (s : State) : (resetCore s).dv = false := rfl
@[simp] theorem resetCore_busy (s : State) : (resetCore s).busy = false := rfl
@[simp] theorem resetCore_t (s : State) : (resetCore s).t = 0 := rfl
@[simp] theorem resetCore_blkidx (s : State) : (resetCore s).blkidx = 0 := rfl
@[simp] theorem resetCore_nblk (s : State) : (resetCore s).nblk = 0 := rfl
@[simp] theorem resetCore_padlen (s : State) : (resetCore s).padlen = 0 := rfl
@[simp] theorem resetCore_msglen (s : State) : (resetCore s).msglen = 0 := rfl
@[simp] theorem resetCore_dlen (s : State) : (resetCore s).dlen = 0 := rfl
@[simp] theorem resetCore_h (s : State) : (resetCore s).h = Vector.replicate 8 0 := rfl
@[simp] theorem resetCore_wv (s : State) : (resetCore s).wv = Vector.replicate 8 0 := rfl
@[simp] theorem resetCore_w (s : State) : (resetCore s).w = Vector.replicate 80 0 := rfl
@[simp] theorem resetCore_msg (s : State) : (resetCore s).msg = [] := rfl
@[simp] theorem resetCore_padbuf (s : State) : (resetCore s).padbuf = [] := rfl
@[simp] theorem resetCore_digest (s : State) : (resetCore s).digest = [] := rfl
@[simp] theorem resetCore_msgCap (s : State) : (resetCore s).msgCap = s.msgCap := rfl
@[simp] theorem resetCore_constants (s : State) : (resetCore s).constants = s.constants := rfl
@[simp] theorem resetCore_draws (s : State) : (resetCore s).draws = s.draws := rfl
@[simp] theorem resetCore_host (s : State) : (resetCore s).host = s.host := rfl
@[simp] theorem resetCore_rdata (s : State) : (resetCore s).rdata = s.rdata := rfl

/-! Taking the oldest event off the queue (R69). -/

@[simp] theorem taking_phase (rest : List HostEvent) (s : State) : (s.taking rest).phase = s.phase := rfl
@[simp] theorem taking_variant (rest : List HostEvent) (s : State) : (s.taking rest).variant = s.variant := rfl
@[simp] theorem taking_err (rest : List HostEvent) (s : State) : (s.taking rest).err = s.err := rfl
@[simp] theorem taking_dv (rest : List HostEvent) (s : State) : (s.taking rest).dv = s.dv := rfl
@[simp] theorem taking_busy (rest : List HostEvent) (s : State) : (s.taking rest).busy = s.busy := rfl
@[simp] theorem taking_t (rest : List HostEvent) (s : State) : (s.taking rest).t = s.t := rfl
@[simp] theorem taking_blkidx (rest : List HostEvent) (s : State) : (s.taking rest).blkidx = s.blkidx := rfl
@[simp] theorem taking_nblk (rest : List HostEvent) (s : State) : (s.taking rest).nblk = s.nblk := rfl
@[simp] theorem taking_padlen (rest : List HostEvent) (s : State) : (s.taking rest).padlen = s.padlen := rfl
@[simp] theorem taking_msglen (rest : List HostEvent) (s : State) : (s.taking rest).msglen = s.msglen := rfl
@[simp] theorem taking_dlen (rest : List HostEvent) (s : State) : (s.taking rest).dlen = s.dlen := rfl
@[simp] theorem taking_h (rest : List HostEvent) (s : State) : (s.taking rest).h = s.h := rfl
@[simp] theorem taking_wv (rest : List HostEvent) (s : State) : (s.taking rest).wv = s.wv := rfl
@[simp] theorem taking_w (rest : List HostEvent) (s : State) : (s.taking rest).w = s.w := rfl
@[simp] theorem taking_msg (rest : List HostEvent) (s : State) : (s.taking rest).msg = s.msg := rfl
@[simp] theorem taking_padbuf (rest : List HostEvent) (s : State) : (s.taking rest).padbuf = s.padbuf := rfl
@[simp] theorem taking_digest (rest : List HostEvent) (s : State) : (s.taking rest).digest = s.digest := rfl
@[simp] theorem taking_msgCap (rest : List HostEvent) (s : State) : (s.taking rest).msgCap = s.msgCap := rfl
@[simp] theorem taking_constants (rest : List HostEvent) (s : State) : (s.taking rest).constants = s.constants := rfl
@[simp] theorem taking_draws (rest : List HostEvent) (s : State) : (s.taking rest).draws = s.draws + 1 := rfl
@[simp] theorem taking_host (rest : List HostEvent) (s : State) : (s.taking rest).host = rest := rfl
@[simp] theorem taking_rdata (rest : List HostEvent) (s : State) : (s.taking rest).rdata = none := rfl
@[simp] theorem taking_cfg (rest : List HostEvent) (s : State) : (s.taking rest).cfg = s.cfg := rfl

@[simp] theorem beginRun_cfg (v : Variant) (s : State) : (beginRun v s).cfg = v.cfg s.constants := rfl

end Sys2Proof.Machine
end

