-- ==== Sys2Proof/Laws/Ops.lean ====
section
/-! SUPPORT. What the shared operations can do, said once: the phase check of a command, the sequencing of HASH's parts, the bodies of the commands, and how a property is carried through a command. -/

namespace Sys2Proof.Machine

variable {s t : State} {i c : Instr} {body : State → Res}

/-! The phase check (R151). -/

/-- In ERROR a command that is checked this way is dropped (R170). -/
theorem gated_of_error (h : s.phase = .error) : gated i body s = .next s := by
  simp [gated, h]

/-- A command that is legal in the current phase performs its body (R151 step 5). -/
theorem gated_of_legal (h : s.phase ≠ .error) (hl : s.legal i = true) : gated i body s = body s := by
  simp [gated, h, hl]

/-- A command that is not legal in the current phase raises SequenceError (R151 step 4). -/
theorem gated_of_not_legal (h : s.phase ≠ .error) (hl : s.legal i = false) :
    gated i body s = .next (raiseError .sequenceError s) := by
  simp [gated, h, hl]

/-- The three ways in which a checked command answers a next state. -/
theorem gated_next (h : gated i body s = .next t) :
    (s.phase = .error ∧ t = s) ∨
    (s.phase ≠ .error ∧ s.legal i = true ∧ body s = .next t) ∨
    (s.phase ≠ .error ∧ s.legal i = false ∧ t = raiseError .sequenceError s) := by
  by_cases he : s.phase = .error
  · rw [gated_of_error he] at h
    exact .inl ⟨he, by injection h with h; exact h.symm⟩
  · cases hl : s.legal i with
    | true =>
      rw [gated_of_legal he hl] at h
      exact .inr (.inl ⟨he, rfl, h⟩)
    | false =>
      rw [gated_of_not_legal he hl] at h
      exact .inr (.inr ⟨he, rfl, by injection h with h; exact h.symm⟩)

/-! The parts of HASH (R159). -/

@[simp] theorem andThen_fault (f : Fault) (next : State → Res) : andThen (.fault f) next = .fault f := rfl

@[simp] theorem andThen_refused (r : Refusal) (next : State → Res) : andThen (.refused r) next = .refused r := rfl

/-- A part that raised ends HASH (R159). -/
theorem andThen_of_error {next : State → Res} (h : s.phase = .error) : andThen (.next s) next = .next s := by
  simp [andThen, h]

/-- A part that did not raise is followed by the next. -/
theorem andThen_of_ok {next : State → Res} (h : s.phase ≠ .error) : andThen (.next s) next = next s := by
  simp [andThen, h]

/-- How a sequence of two parts answers a next state. -/
theorem andThen_next {r : Res} {next : State → Res} (h : andThen r next = .next t) :
    ∃ u, r = .next u ∧ ((u.phase = .error ∧ t = u) ∨ (u.phase ≠ .error ∧ next u = .next t)) := by
  cases r with
  | next u =>
    refine ⟨u, rfl, ?_⟩
    by_cases hu : u.phase = .error
    · rw [andThen_of_error hu] at h
      exact .inl ⟨hu, by injection h with h; exact h.symm⟩
    · rw [andThen_of_ok hu] at h
      exact .inr ⟨hu, h⟩
  | fault f => simp at h
  | refused f => simp at h

/-! The bodies of the commands. -/

/-- The two ways in which PAD's body answers a next state: MessageTooLong, or the padded stream is stored (R126). -/
theorem padBody_next (h : padBody c s = .next t) :
    (tooLong s.cfg s.msglen.toNat = true ∧ t = raiseError .messageTooLong s) ∨
    (tooLong s.cfg s.msglen.toNat = false ∧ s.msglen.toNat ≤ s.msgCap.val ∧
      ∃ m, s.message = some m ∧ (padBytes s.cfg m).length % s.cfg.blockBytes = 0 ∧
        t = { s with
          padbuf := Memory.writeBytes ByteSpace.padbuf.background s.padbuf 0 (padBytes s.cfg m)
          padlen := BitVec.ofNat 64 (padBytes s.cfg m).length
          phase := .parse }) := by
  unfold padBody at h
  split at h
  · rename_i hl
    exact .inl ⟨hl, by injection h with h; exact h.symm⟩
  · rename_i hl
    split at h
    · simp at h
    · rename_i hcap
      split at h
      · simp at h
      · rename_i m hm
        unfold storePadded at h
        split at h
        · simp at h
        · rename_i hp
          exact .inr ⟨by simpa using hl, by omega, m, hm, by omega, by injection h with h; exact h.symm⟩

/-- PARSE's body always answers a next state (R132). -/
theorem parseBody_cases (s : State) :
    (8 * s.padlen.toNat % s.cfg.blockBits ≠ 0 ∧ parseBody s = .next (raiseError .invalidLength s)) ∨
    (8 * s.padlen.toNat % s.cfg.blockBits = 0 ∧ s.blockCount = 0 ∧
      parseBody s = .next (finalize (setBlockCount s))) ∨
    (8 * s.padlen.toNat % s.cfg.blockBits = 0 ∧ s.blockCount ≠ 0 ∧
      parseBody s = .next { setBlockCount s with phase := .expandSchedule }) := by
  by_cases h1 : 8 * s.padlen.toNat % s.cfg.blockBits = 0
  · by_cases h2 : s.blockCount = 0
    · exact .inr (.inl ⟨h1, h2, by simp [parseBody, h1, h2]⟩)
    · exact .inr (.inr ⟨h1, h2, by simp [parseBody, h1, h2]⟩)
  · exact .inl ⟨h1, by simp [parseBody, h1]⟩

/-- FOLD's body always answers a next state (R145). -/
theorem foldBody_cases (s : State) :
    (s.blkidx.toNat + 1 < s.nblk.toNat ∧
      foldBody s = .next { mergeBlock s with phase := .expandSchedule }) ∨
    (s.nblk.toNat ≤ s.blkidx.toNat + 1 ∧ foldBody s = .next (finalize (mergeBlock s))) := by
  by_cases h : s.blkidx.toNat + 1 < s.nblk.toNat
  · exact .inl ⟨h, by simp [foldBody, h]⟩
  · exact .inr ⟨by omega, by simp [foldBody, h]⟩

/-- INIT always answers a next state (R157). -/
theorem initBody_cases (v : Nat) (s : State) :
    (∃ x, select v = some x ∧ initBody v s = .next (beginRun x s)) ∨
    (select v = none ∧ initBody v s = .next (raiseError .unsupportedVariant s)) := by
  unfold initBody
  cases select v with
  | some x => exact .inl ⟨x, rfl, rfl⟩
  | none => exact .inr ⟨rfl, rfl⟩

/-- Which codes select a variant (R103). -/
theorem select_eq_some_iff (v : Nat) (x : Variant) : select v = some x ↔ v = x.code := by
  unfold select
  cases x <;> by_cases h0 : v = 0 <;> by_cases h1 : v = 1 <;> simp_all [Variant.code]

/-! Carrying a property through a command. -/

/-- The steps of a command that a property must survive, one for each operation on the registers. -/
structure Carried (P : State → Prop) : Prop where
  raises : ∀ e s, P s → P (raiseError e s)
  begins : ∀ x s, P s → P (beginRun x s)
  pads : ∀ c s t, P s → s.phase = .preprocess → padBody c s = .next t → P t
  parses : ∀ s t, P s → s.phase = .parse → parseBody s = .next t → P t
  expands : ∀ s t, P s → s.phase = .expandSchedule → expandBody s = .next t → P t
  rounds : ∀ s t, P s → s.phase = .compress → s.t.toNat ≠ s.cfg.rounds → roundBody s = .next t → P t
  folds : ∀ s t, P s → s.phase = .compress → s.t.toNat = s.cfg.rounds → foldBody s = .next t → P t
  compresses : ∀ s t, P s → s.phase = .compress → compressBody s = .next t → P t
  formats : ∀ s t, P s → s.phase ≠ .idle → s.phase ≠ .error → formatBody s = .next t → P t

variable {P : State → Prop}

/-- A checked command carries a property that its body and a raise carry. -/
theorem gated_carries (hr : ∀ e s, P s → P (raiseError e s))
    (hb : s.phase ≠ .error → s.legal i = true → body s = .next t → P t) (hs : P s)
    (h : gated i body s = .next t) : P t := by
  rcases gated_next h with ⟨_, rfl⟩ | ⟨he, hl, h⟩ | ⟨_, _, rfl⟩
  · exact hs
  · exact hb he hl h
  · exact hr _ _ hs

theorem initBody_carries (hc : Carried P) {v : Nat} (hs : P s) (h : initBody v s = .next t) : P t := by
  rcases initBody_cases v s with ⟨x, _, hx⟩ | ⟨_, hx⟩ <;> rw [hx] at h <;> injection h with h <;> subst h
  · exact hc.begins x s hs
  · exact hc.raises _ s hs

theorem padPart_carries (hc : Carried P) (hs : P s) (h : gated .pad (padBody c) s = .next t) : P t :=
  gated_carries hc.raises (fun _ hl hb => hc.pads c s t hs (by simpa [State.legal] using hl) hb) hs h

theorem parsePart_carries (hc : Carried P) (hs : P s) (h : gated .parse parseBody s = .next t) : P t :=
  gated_carries hc.raises (fun _ hl hb => hc.parses s t hs (by simpa [State.legal] using hl) hb) hs h

theorem expandPart_carries (hc : Carried P) (hs : P s) (h : gated .expand expandBody s = .next t) : P t :=
  gated_carries hc.raises (fun _ hl hb => hc.expands s t hs (by simpa [State.legal] using hl) hb) hs h

theorem compressPart_carries (hc : Carried P) (hs : P s) (h : gated .compress compressBody s = .next t) : P t :=
  gated_carries hc.raises (fun _ hl hb => hc.compresses s t hs (by simpa [State.legal] using hl) hb) hs h

theorem hashBlock_carries (hc : Carried P) (hs : P s) (h : hashBlock s = .next t) : P t := by
  obtain ⟨u, hu, ⟨_, rfl⟩ | ⟨_, h⟩⟩ := andThen_next h
  · exact expandPart_carries hc hs hu
  · exact compressPart_carries hc (expandPart_carries hc hs hu) h

theorem hashLoop_carries (hc : Carried P) (n : Nat) : ∀ {s t : State}, P s → hashLoop n s = .next t → P t := by
  induction n with
  | zero =>
    intro s t hs h
    injection h with h
    exact h ▸ hs
  | succ n ih =>
    intro s t hs h
    unfold hashLoop at h
    split at h
    · obtain ⟨u, hu, ⟨_, rfl⟩ | ⟨_, h⟩⟩ := andThen_next h
      · exact hashBlock_carries hc hs hu
      · exact ih (hashBlock_carries hc hs hu) h
    · injection h with h
      exact h ▸ hs

theorem hashRun_carries (hc : Carried P) (hs : P s) (h : hashRun c s = .next t) : P t := by
  obtain ⟨u, hu, h⟩ := andThen_next h
  have hpu : P u := by
    obtain ⟨w, hw, ⟨_, rfl⟩ | ⟨_, hu⟩⟩ := andThen_next hu
    · exact padPart_carries hc hs hw
    · exact parsePart_carries hc (padPart_carries hc hs hw) hu
  rcases h with ⟨_, rfl⟩ | ⟨_, h⟩
  · exact hpu
  · exact hashLoop_carries hc _ hpu h

/-- A property that every operation on the registers carries is carried by every command, HASH included. -/
theorem exec_carries (hc : Carried P) (i : Instr) (hs : P s) (h : exec i s = .next t) : P t := by
  cases i with
  | nop => injection h with h; exact h ▸ hs
  | init v => exact initBody_carries hc hs h
  | pad => exact padPart_carries hc hs h
  | parse => exact parsePart_carries hc hs h
  | expand => exact expandPart_carries hc hs h
  | round =>
    refine gated_carries hc.raises (fun _ hl hb => ?_) hs h
    have hl : s.phase = .compress ∧ s.t.toNat ≠ s.cfg.rounds := by simpa [State.legal] using hl
    exact hc.rounds s t hs hl.1 hl.2 hb
  | fold =>
    refine gated_carries hc.raises (fun _ hl hb => ?_) hs h
    have hl : s.phase = .compress ∧ s.t.toNat = s.cfg.rounds := by simpa [State.legal] using hl
    exact hc.folds s t hs hl.1 hl.2 hb
  | compress => exact compressPart_carries hc hs h
  | format =>
    refine gated_carries hc.raises (fun he hl hb => ?_) hs h
    exact hc.formats s t hs (by simpa [State.legal] using hl) he hb
  | hash v =>
    obtain ⟨u, hu, ⟨_, rfl⟩ | ⟨_, h⟩⟩ := andThen_next h
    · exact initBody_carries hc hs hu
    · exact hashRun_carries hc (initBody_carries hc hs hu) h

end Sys2Proof.Machine
end

