-- ==== Sys2Proof/Laws/PerInstr.lean ====
section
/-! SUPPORT. The facts that hold of every command as syntax, one lemma per constructor: the fields of its word are those of its row of the opcode map (R77, R79). -/

namespace Sys2Proof.Laws.EncodedFields

/-- The word of a well-formed command has its operation number in bits 7:4, 00 in bits 3:2, and its operand in bits 1:0 (R77). -/
def Statement (i : Instr) : Prop :=
  i.wellFormed = true →
    (opField (encode i)).toNat = opNumber i ∧ rsvField (encode i) = 0#2 ∧
    (variantField (encode i)).toNat = operandBits i

theorem nop : Statement .nop := fun _ => by decide

theorem init (v : Nat) : Statement (.init v) := fun h => by
  have hv : v < 4 := by simpa [Instr.wellFormed] using h
  obtain rfl | rfl | rfl | rfl : v = 0 ∨ v = 1 ∨ v = 2 ∨ v = 3 := by omega
  all_goals decide

theorem pad : Statement .pad := fun _ => by decide

theorem parse : Statement .parse := fun _ => by decide

theorem expand : Statement .expand := fun _ => by decide

theorem round : Statement .round := fun _ => by decide

theorem fold : Statement .fold := fun _ => by decide

theorem compress : Statement .compress := fun _ => by decide

theorem format : Statement .format := fun _ => by decide

theorem hash (v : Nat) : Statement (.hash v) := fun h => by
  have hv : v < 4 := by simpa [Instr.wellFormed] using h
  obtain rfl | rfl | rfl | rfl : v = 0 ∨ v = 1 ∨ v = 2 ∨ v = 3 := by omega
  all_goals decide

end Sys2Proof.Laws.EncodedFields
end

