-- ==== Sys2Proof/Laws/Step.lean ====
section
/-! SUPPORT. What a step can do, said once: the queue of host events, and the cases in which an event answers a next state. -/

namespace Sys2Proof.Machine

variable {s t : State} {a : HostEvent} {rest : List HostEvent}

/-- With nothing pending the core holds its state (R182). -/
theorem step_of_idle (h : s.host = []) : step s = .next s := by simp [step, h]

/-- Otherwise the oldest pending event acts (R69). -/
theorem step_of_cons (h : s.host = a :: rest) : step s = hostEvent a (s.taking rest) := by simp [step, h]

/-- Outside the BUSY duty of R194 an event does what its rule says. -/
theorem hostEvent_of_not_busy (h : s.busy = false) : hostEvent a s = performEvent a s := by simp [hostEvent, h]

/-- What a CMD write can do (R53, R151). -/
theorem issueCommand_next {c : Byte} (h : issueCommand c s = .next t) :
    (∃ i, decode c = .ok i ∧ exec i s = .next t) ∨
    (∃ e, decode c = .error e ∧ s.phase = .error ∧ t = s) ∨
    (∃ e, decode c = .error e ∧ s.phase ≠ .error ∧ t = raiseError .illegalCommand s) := by
  unfold issueCommand at h
  split at h
  · rename_i i hd
    exact .inl ⟨i, hd, h⟩
  · rename_i e hd
    unfold illegalWord at h
    split at h
    · rename_i hp
      exact .inr (.inl ⟨e, hd, hp, by injection h with h; exact h.symm⟩)
    · rename_i hp
      exact .inr (.inr ⟨e, hd, hp, by injection h with h; exact h.symm⟩)

/-- What the state of the machine can be after an event: the state with a reply to the host, the state unchanged (an ignored or a dropped write), a new MSGLEN, one MSG cell written inside the space, the reset state, an illegal word raised, or the outcome of a command. -/
theorem performEvent_next (h : performEvent a s = .next t) :
    (∃ x, t = { s with rdata := some x }) ∨
    t = s ∨
    (∃ x, t = { s with msglen := x }) ∨
    (∃ addr b, addr < s.msgCap.val ∧
      t = { s with msg := Memory.write ByteSpace.msg.background s.msg addr b }) ∨
    (a = .reset ∧ t = resetCore s) ∨
    (s.phase ≠ .error ∧ t = raiseError .illegalCommand s) ∨
    (∃ offset width x i, a = .regWrite offset width x ∧ decode (BitVec.setWidth 8 x) = .ok i ∧
      exec i s = .next t) := by
  cases a with
  | regRead offset width =>
    simp only [performEvent, readRegister, reply] at h
    split at h
    · split at h
      · injection h with h
        exact .inl ⟨_, h.symm⟩
      · simp at h
    · simp at h
  | regWrite offset width x =>
    simp only [performEvent, writeRegister] at h
    split at h
    · split at h
      · rename_i r _
        cases r with
        | cmd =>
          rcases issueCommand_next h with ⟨i, hd, h⟩ | ⟨e, hd, _, h⟩ | ⟨e, hd, hp, h⟩
          · exact .inr (.inr (.inr (.inr (.inr (.inr ⟨offset, width, x, i, rfl, hd, h⟩)))))
          · exact .inr (.inl h)
          · exact .inr (.inr (.inr (.inr (.inr (.inl ⟨hp, h⟩)))))
        | msglen =>
          injection h with h
          exact .inr (.inr (.inl ⟨x, h.symm⟩))
        | status | padlen | nblk | blkidx | t | dlen | h _ | wv _ | w _ =>
          injection h with h
          exact .inr (.inl h.symm)
      · simp at h
    · simp at h
  | byteRead space addr width =>
    simp only [performEvent, byteChecked] at h
    split at h
    · simp at h
    · split at h
      · simp at h
      · cases space with
        | msg =>
          simp only [loadByte, reply] at h
          split at h
          · injection h with h
            exact .inl ⟨_, h.symm⟩
          · simp at h
        | padbuf | digest =>
          injection h with h
          exact .inl ⟨_, h.symm⟩
  | byteWrite space addr width b =>
    simp only [performEvent, byteChecked] at h
    split at h
    · simp at h
    · split at h
      · simp at h
      · rename_i _ hin
        cases space with
        | msg =>
          injection h with h
          exact .inr (.inr (.inr (.inl ⟨addr, b, by simpa [State.spaceSize] using hin, h.symm⟩)))
        | padbuf | digest =>
          injection h with h
          exact .inr (.inl h.symm)
  | reset =>
    injection h with h
    exact .inr (.inr (.inr (.inr (.inl ⟨rfl, h.symm⟩))))

/-- How a step answers a next state: it holds the state, or the oldest event acts on the state that has taken it. -/
theorem step_next (h : step s = .next t) :
    (s.host = [] ∧ t = s) ∨
    ∃ a rest, s.host = a :: rest ∧ (s.busy = true → a.allowedWhileBusy = true) ∧
      performEvent a (s.taking rest) = .next t := by
  cases hh : s.host with
  | nil =>
    rw [step_of_idle hh] at h
    exact .inl ⟨rfl, by injection h with h; exact h.symm⟩
  | cons a rest =>
    rw [step_of_cons hh] at h
    refine .inr ⟨a, rest, rfl, ?_⟩
    unfold hostEvent at h
    split at h
    · simp at h
    · rename_i hb
      exact ⟨by intro hbusy; simpa [hbusy] using hb, h⟩

end Sys2Proof.Machine
end

