-- ==== Sys2Proof/Tests/Slice0.lean ====
section
/-! SUPPORT. The model's own tests: the checks of WellFormed, words written out from the spec's encoding, at most two small tests for each command with values from spec/95_test_vectors.md, and, for every statement with hypotheses, states and operands that meet them. -/

/- The kernel evaluates these theorems one after another: side by side they need more memory than the check allows. -/
set_option Elab.async false

open Sys2Proof Sys2Proof.Machine Sys2Proof.Claims

namespace Sys2Proof.Tests

/-! Helpers. -/

/-- The outcome is a next state with a property. -/
def answers (r : Res) (p : State → Bool) : Bool :=
  match r with
  | .next s => p s
  | .fault _ => false
  | .refused _ => false

/-- The outcome is this fault. -/
def faults (r : Res) (f : Fault) : Bool :=
  match r with
  | .next _ => false
  | .fault e => decide (e = f)
  | .refused _ => false

/-- A core right after reset with a message memory of 256 bytes, the start of the programs of spec/95_test_vectors.md. -/
def core256 : State := State.resetWith (Fin.ofNat _ 256) defaultConstants

/-- A core in a phase, with a variant, a message memory of 16 bytes and nothing else set. -/
def coreIn (p : Phase) (v : Variant) : State :=
  { State.reset with phase := p, variant := v, msgCap := Fin.ofNat _ 16 }

/-- The message "abc" in MSG (P1). -/
def abc (s : State) : State := { s with msg := [(0, 0x61), (1, 0x62), (2, 0x63)], msglen := 3 }

/-- The host is about to do `a`. -/
def doing (a : HostEvent) (s : State) : State := { s with host := [a] }

/-- The state after some commands; the start state if the machine stops. -/
def after (commands : List Instr) (s : State) : State :=
  match runCommands commands s with
  | .next t => t
  | .fault _ => s
  | .refused _ => s

/-- "abc" prepared by INIT 0, PAD, PARSE (the pseudo-instruction PREP). -/
def prepared : State := after [.init 0, .pad, .parse] (abc (coreIn .idle .narrow))

/-- "abc" after INIT 0, PAD, PARSE, EXPAND. -/
def expanded : State := after [.expand] prepared

/-- A state in phase ERROR. -/
def failed : State := raiseError .illegalCommand (coreIn .preprocess .narrow)

/-! WellFormed: each check refuses an ill-formed term. -/

theorem test_wellFormed_refuses_init4 : Instr.wellFormed (.init 4) = false := by decide
theorem test_wellFormed_refuses_hash4 : Instr.wellFormed (.hash 4) = false := by decide
theorem test_wellFormed_accepts_code3 : Instr.wellFormed (.init 3) = true ∧ Instr.wellFormed (.hash 3) = true := by
  decide

/-! Decoding: op in bits 7:4, rsv in bits 3:2, v in bits 1:0 (R77, R79; V-ENC-1 to V-ENC-8). -/

theorem test_decode_nop : decode 0b0000_00_00 = .ok .nop := by decide
theorem test_decode_init : decode 0b0001_00_10 = .ok (.init 2) := by decide
theorem test_decode_pad : decode 0b0010_00_00 = .ok .pad := by decide
theorem test_decode_parse : decode 0b0011_00_00 = .ok .parse := by decide
theorem test_decode_expand : decode 0b0100_00_00 = .ok .expand := by decide
theorem test_decode_round : decode 0b0101_00_00 = .ok .round := by decide
theorem test_decode_fold : decode 0b0110_00_00 = .ok .fold := by decide
theorem test_decode_compress : decode 0b0111_00_00 = .ok .compress := by decide
theorem test_decode_format : decode 0b1000_00_00 = .ok .format := by decide
theorem test_decode_hash : decode 0b1001_00_01 = .ok (.hash 1) := by decide

/-- V-ENC-3, V-ENC-7. -/
theorem test_decode_reserved_bits : decode 0x14 = .error .reservedBits ∧ decode 0x1f = .error .reservedBits ∧
    decode 0x9c = .error .reservedBits := by decide
/-- V-ENC-5. -/
theorem test_decode_low_bits : decode 0x01 = .error .lowBits ∧ decode 0x2f = .error .lowBits ∧
    decode 0x88 = .error .lowBits := by decide
/-- V-ENC-8. -/
theorem test_decode_reserved_op : decode 0xa0 = .error .reservedOp ∧ decode 0xb5 = .error .reservedOp ∧
    decode 0xff = .error .reservedOp := by decide
/-- The words of R79, from the encoder. -/
theorem test_encode : [Instr.nop, .init 3, .pad, .parse, .expand, .round, .fold, .compress, .format, .hash 2].map encode =
    [0x00, 0x13, 0x20, 0x30, 0x40, 0x50, 0x60, 0x70, 0x80, 0x92] := by decide
theorem test_decodeTableWord : decodeTableWord 8 0x91 = some (.hash 1) ∧ decodeTableWord 8 0x94 = none := by decide
/-- The text notation of R85. -/
theorem test_parseCommand : parseCommand "INIT sha256 ; start" = some (.init 0) ∧ parseCommand "hash #3" = some (.hash 3) ∧
    parseCommand "Pad" = some .pad ∧ parseCommand "init sha384" = none := by decide +kernel

/-! The commands. -/

/-- V-ERR-8. -/
theorem test_nop_in_error : answers (exec .nop failed) (fun t => decide (t = failed)) = true := by decide +kernel
/-- R157, the example: INIT sha512 from reset. -/
theorem test_init_wide : answers (exec (.init 1) State.reset) (fun t =>
    decide (t.status = 0x011 ∧ t.h[0] = 0x6a09e667f3bcc908)) = true := by decide +kernel
/-- V-ERR-1. -/
theorem test_init_unsupported : answers (exec (.init 2) State.reset) (fun t =>
    decide (t.status = 0x306 ∧ t.variant = .narrow)) = true := by decide +kernel
/-- V-PAD-3. -/
theorem test_pad_abc : answers (exec .pad (abc (coreIn .preprocess .narrow))) (fun t =>
    decide (t.padlen = 64 ∧ t.phase = .parse ∧ t.padbuf.map Prod.snd =
      [0x61, 0x62, 0x63, 0x80] ++ List.replicate 52 0 ++ [0, 0, 0, 0, 0, 0, 0, 0x18])) = true := by decide +kernel
/-- V-ERR-10: MessageTooLong is found before the model faults. -/
theorem test_pad_too_long : answers
    (exec .pad { coreIn .preprocess .narrow with msglen := 0x2000000000000000 })
    (fun t => decide (t.status = 0x106)) = true := by decide +kernel
/-- V-PAR-2. -/
theorem test_parse_two_blocks : answers (exec .parse { coreIn .parse .narrow with padlen := 128 })
    (fun t => decide (t.nblk = 2 ∧ t.blkidx = 0 ∧ t.phase = .expandSchedule)) = true := by decide +kernel
/-- V-PAR-4. -/
theorem test_parse_wide : answers (exec .parse { coreIn .parse .wide with padlen := 384 })
    (fun t => decide (t.nblk = 3)) = true := by decide +kernel
/-- R138, the example. -/
theorem test_expand_abc : answers (exec .expand prepared) (fun t =>
    decide (t.w[0] = 0x61626380 ∧ t.w[15] = 0x18 ∧ t.w[16] = 0x61626380 ∧ t.w[17] = 0x000f0000 ∧
      t.w[63] = 0x12b1edeb ∧ t.w[64] = 0 ∧ t.wv[0] = 0x6a09e667 ∧ t.t = 0)) = true := by decide +kernel
/-- R152: EXPAND before PARSE. -/
theorem test_expand_out_of_order : answers (exec .expand (coreIn .parse .narrow))
    (fun t => decide (t.status = 0x506)) = true := by decide +kernel
/-- R144, the example. -/
theorem test_round_abc : answers (exec .round expanded) (fun t =>
    decide (t.t = 1 ∧ t.wv = #v[0x5d6aebcd, 0x6a09e667, 0xbb67ae85, 0x3c6ef372,
      0xfa2a4622, 0x510e527f, 0x9b05688c, 0x1f83d9ab])) = true := by decide +kernel
/-- V-ERR-7. -/
theorem test_round_after_last : answers (exec .round { coreIn .compress .narrow with t := 64 })
    (fun t => decide (t.status = 0x506)) = true := by decide +kernel
/-- R145, the example. -/
theorem test_fold_abc : answers (exec .fold { expanded with
      t := 64, wv := #v[0x506e3058, 0xd39a2165, 0x04d24d6c, 0xb85e2ce9, 0x5ef50f24, 0xfb121210, 0x948d25b6, 0x961f4894] })
    (fun t => decide (t.h = #v[0xba7816bf, 0x8f01cfea, 0x414140de, 0x5dae2223, 0xb00361a3, 0x96177a9c, 0xb410ff61,
      0xf20015ad] ∧ t.blkidx = 1 ∧ t.status = 0x00D)) = true := by decide +kernel
/-- V-ERR-6. -/
theorem test_fold_too_early : answers (exec .fold { expanded with t := 5 }) (fun t =>
    decide (t.status = 0x506 ∧ t.t = 5 ∧ t.h = expanded.h ∧ t.wv = expanded.wv)) = true := by decide +kernel
/-- R146, the example, from the wide initial state and the schedule of "abc". -/
theorem test_compress_wide : answers (runCommands [.init 1, .pad, .parse, .expand, .compress] (abc core256))
    (fun t => decide (t.h[0] = 0xddaf35a193617aba ∧ t.h[7] = 0x2a9ac94fa54ca49f ∧ t.t = 80 ∧ t.phase = .finalize)) = true := by
  decide +kernel
/-- R146: the rounds that remain after one ROUND. -/
theorem test_compress_after_round : answers (exec .compress (after [.round] expanded)) (fun t =>
    decide (t.h[0] = 0xba7816bf ∧ t.h[7] = 0xf20015ad)) = true := by decide +kernel
/-- R158, the example: the first and the last character, and the cell after them. -/
theorem test_format_initial : answers (exec .format (after [.init 0] (coreIn .idle .narrow))) (fun t =>
    decide (digestAt t 0 = some 0x36 ∧ digestAt t 1 = some 0x61 ∧ digestAt t 63 = some 0x39 ∧
      digestAt t 64 = some 0 ∧ t.dlen = 64 ∧ t.dv = false)) = true := by decide +kernel
/-- V-ERR-3. -/
theorem test_format_idle : answers (exec .format State.reset) (fun t => decide (t.status = 0x506)) = true := by
  decide +kernel
/-- S3, in the ASCII codes of its characters. -/
theorem test_hash_abc : answers (exec (.hash 0) (abc core256)) (fun t =>
    decide (t.status = 0x00D ∧ (List.range 128).map (digestAt t) = (asciiBytes
      "ba7816bf8f01cfea414140de5dae2223b00361a396177a9cb410ff61f20015ad" ++ List.replicate 64 0).map some)) = true := by
  decide +kernel
/-- V-CHN-3 and the digest of P2's message after one block: H is not the initial state when block 1 starts. -/
theorem test_hash_two_blocks : answers (runCommands [.init 0, .pad, .parse, .expand, .compress]
      { core256 with
        msglen := 56
        msg := Memory.writeBytes none [] 0 (asciiBytes "abcdbcdecdefdefgefghfghighijhijkijkljklmklmnlmnomnopnopq") })
    (fun t => decide (t.status = 0x003 ∧ t.h[0] = 0x85e655d6 ∧ t.h[7] = 0xf20e533a ∧ t.nblk = 2 ∧ t.padlen = 128)) = true := by
  decide +kernel

/-! The host's side. -/

/-- V-ENC-10: a step performs the word in bits 7:0 of a CMD write. -/
theorem test_step_hash : answers (step (doing (.regWrite 0 8 0x190) (abc core256)))
    (fun t => decide (t.status = 0x00D)) = true := by decide +kernel
/-- R97: the outcome depends on the constants, which are the model's arguments: with every initial word 0, INIT 0 loads 0. -/
theorem test_constants_are_arguments :
    answers (exec (.init 0) (State.resetWith 0 { defaultConstants with h0Narrow := Vector.replicate 8 0 }))
      (fun t => decide (t.h = Vector.replicate 8 0 ∧ t.status = 0x001)) = true := by decide +kernel
/-- P9 from reset itself, with the open MSG_CAP: the empty message fits any capacity. -/
theorem test_reset_hash_empty : answers (step (State.reset.withFetchWord 8 0x90))
    (fun t => decide (t.h[0] = 0xe3b0c442 ∧ t.status = 0x00D)) = true := by decide +kernel
theorem test_withFetchWord : answers (step (State.reset.withFetchWord 8 0x11))
    (fun t => decide (t.status = 0x011 ∧ t.host = [])) = true := by decide +kernel
/-- V-MEM-4, V-MEM-5, V-MEM-7, V-MEM-10. -/
theorem test_host_faults :
    faults (step (doing (.regRead 0x0c0 8) State.reset)) (.regUnmapped (.regRead 0x0c0 8)) = true ∧
    faults (step (doing (.regRead 0x004 8) State.reset)) (.regWidthOrAlignment (.regRead 0x004 8)) = true ∧
    faults (step (doing (.regRead 0x380 8) State.reset)) (.regUnmapped (.regRead 0x380 8)) = true ∧
    faults (step (doing (.byteRead .msg 5 1) core256)) (.unwrittenRead (.byteRead .msg 5 1)) = true := by
  decide +kernel
/-- V-MEM-6, V-MEM-11. -/
theorem test_register_reads :
    answers (step (doing (.regRead 0x378 8) { State.reset with w := Vector.ofFn fun i => if i.val = 79 then 7 else 0 }))
      (fun t => decide (t.rdata = some 7)) = true ∧
    answers (step (doing (.regRead 0x040 8) (after [.init 0] State.reset)))
      (fun t => decide (t.rdata = some 0x000000006a09e667)) = true := by decide +kernel
/-- V-MEM-2, V-MEM-3, and a stored MSG byte. -/
theorem test_host_writes :
    answers (step (doing (.regWrite 0x008 8 0xffff) State.reset)) (fun t => decide (t.status = 0)) = true ∧
    answers (step (doing (.regWrite 0x040 8 1) State.reset)) (fun t => decide (t.h[0] = 0)) = true ∧
    answers (step (doing (.byteWrite .msg 9 1 0) core256)) (fun t => decide (msgAt t 9 = some 0)) = true := by
  decide +kernel
/-- R86: PREP and `.message`. -/
theorem test_assemble : assembleProgram [.message "ab", .prep 1] =
    [.byteWrite .msg 0 1 0x61, .byteWrite .msg 1 1 0x62, .regWrite 0x010 8 2,
      .regWrite 0 8 0x11, .regWrite 0 8 0x20, .regWrite 0 8 0x30] := by decide +kernel

/-! The functions: the vectors of section 2.1. -/

/-- V-ARI-1, V-ARI-4, V-ARI-7, V-ARI-8, V-ARI-11. -/
theorem test_arithmetic : addW 32 0xffffffff 1 = 0 ∧ rotr 32 1 1 = 0x80000000 ∧ rotr 64 1 1 = 0x8000000000000000 ∧
    shr 0xffffffff 3 = 0x1fffffff ∧ notW 32 0 = 0xffffffff := by decide
/-- V-MIX-6, V-MIX-11. -/
theorem test_mixing : [sigma0 (cfgNarrow defaultConstants) 0x89abcdef, sigma1 (cfgNarrow defaultConstants) 0x89abcdef, bigSigma0 (cfgNarrow defaultConstants) 0x89abcdef,
      bigSigma1 (cfgNarrow defaultConstants) 0x89abcdef] = [0x3d5dcc4c, 0x9f685f13, 0x22210003, 0xd6316d8a] ∧
    [sigma0 (cfgWide defaultConstants) 0x0123456789abcdef, sigma1 (cfgWide defaultConstants) 0x0123456789abcdef, bigSigma0 (cfgWide defaultConstants) 0x0123456789abcdef,
      bigSigma1 (cfgWide defaultConstants) 0x0123456789abcdef] =
      [0x6f92c77c6c4f1aa1, 0x70a3460dbbd4317a, 0xb7c57a100c7ec1ab, 0x7703112333475567] := by decide +kernel
/-- V-CM-1, V-CM-2, V-CM-6. -/
theorem test_ch_maj : ch 32 0x510e527f 0x9b05688c 0x1f83d9ab = 0x1f85c98c ∧
    maj 0x6a09e667 0xbb67ae85 0x3c6ef372 = 0x3a6fe667 ∧
    ch 64 0x510e527fade682d1 0x9b05688c2b3e6c1f 0x1f83d9abfb41bd6b = 0x1f85c98c7b273d3b := by decide +kernel
/-- V-PAD-1 at the boundaries, V-PAD-8. -/
theorem test_padding_geometry : [55, 56, 119, 120].map (zeroBytes (cfgNarrow defaultConstants)) = [0, 63, 0, 63] ∧
    [111, 112, 239, 240].map (zeroBytes (cfgWide defaultConstants)) = [0, 127, 0, 127] ∧
    tooLong (cfgNarrow defaultConstants) (2 ^ 61) = true ∧ tooLong (cfgNarrow defaultConstants) (2 ^ 61 - 1) = false := by decide +kernel
/-- V-PAR-5, V-PAR-6. -/
theorem test_parse_blocks : parseBlocks (cfgNarrow defaultConstants) (List.replicate 520 false) = .error .invalidLength ∧
    parseBlocks (cfgNarrow defaultConstants) [] = .ok [] := by decide +kernel
/-- S1: the function, on the empty message. -/
theorem test_hash_empty : hashMessage (cfgNarrow defaultConstants) [] =
    .ok (asciiBytes "e3b0c44298fc1c149afbf4c8996fb92427ae41e4649b934ca495991b7852b855") := by decide +kernel

/-! Witnesses: for every statement with hypotheses, states and operands that meet them all together, each clause at a boundary of its range.  A witness is a state the machine can be put in, never a value that a statement claims. -/

/-- An outcome that answers is a next state. -/
theorem next_of_answers {r : Res} {p : State → Bool} (h : answers r p = true) : ∃ t, r = .next t ∧ p t = true := by
  cases r with
  | next t => exact ⟨t, rfl, h⟩
  | fault f => simp [answers] at h
  | refused f => simp [answers] at h

/-- The items of `Inv`, in a form that can be evaluated. -/
abbrev InvChecks (s : State) : Prop :=
  ((s.phase = .error ↔ s.err ≠ .noError) ∧ (s.dv = true ↔ s.phase = .finalize) ∧ s.t.toNat ≤ s.cfg.rounds ∧
    s.blkidx.toNat ≤ s.nblk.toNat ∧ (s.phase.inBlock = true → s.blkidx.toNat < s.nblk.toNat)) ∧
  (s.phase = .finalize → s.blkidx = s.nblk ∧ s.dlen.toNat = s.cfg.digestChars ∧
    Memory.readBytes ByteSpace.digest.background s.digest 0 s.dlen.toNat = some (formatDigest s.cfg s.h)) ∧
  (s.phase.padded = true → 0 < s.padlen.toNat ∧ 8 * s.padlen.toNat % s.cfg.blockBits = 0) ∧
  (s.phase.counted = true → s.nblk.toNat = 8 * s.padlen.toNat / s.cfg.blockBits) ∧
  (s.variant = .narrow → ∀ j : Fin 8, s.h[j].toNat < 2 ^ 32 ∧ s.wv[j].toNat < 2 ^ 32) ∧
  (s.variant = .narrow → ∀ i : Fin 80, s.w[i].toNat < 2 ^ 32) ∧
  s.busy = false ∧ (s.dlen.toNat = 0 ∨ s.dlen.toNat = 64 ∨ s.dlen.toNat = 128) ∧
  (∀ k, k < 128 → s.dlen.toNat ≤ k → Memory.read ByteSpace.digest.background s.digest k = some 0) ∧
  (s.phase.padded = true → ∀ a, a < s.padlen.toNat →
    (Memory.read ByteSpace.padbuf.background s.padbuf a).isSome = true) ∧
  s.padlen.toNat ≤ s.padCap ∧
  (Memory.wf ByteSpace.msg.background s.msg = true ∧ Memory.wf ByteSpace.padbuf.background s.padbuf = true ∧
    Memory.wf ByteSpace.digest.background s.digest = true) ∧
  ((∀ cell ∈ s.msg, cell.1 < s.spaceSize .msg) ∧ (∀ cell ∈ s.padbuf, cell.1 < s.spaceSize .padbuf) ∧
    ∀ cell ∈ s.digest, cell.1 < s.spaceSize .digest)

theorem inv_of_checks {s : State} (h : InvChecks s) : Inv s := by
  obtain ⟨⟨h1, h2, h3, h4, h5⟩, h6, h7, h8, h9, h10, h11, h12, h13, h14, h15, h16, h17⟩ := h
  exact ⟨h1, h2, h3, h4, h5, h6, h7, h8, h9, h10, h11, h12, fun k hk hl => h13 k hl hk, h14, h15, h16, h17⟩

/-- "abc" after its last round. -/
def lastRound : State := after (List.replicate 64 .round) expanded

/-- "abc" hashed, in FINALIZE. -/
def finished : State := after [.hash 0] (abc (coreIn .idle .narrow))

/-! Encoding. -/

theorem test_hypotheses_DecodeEncodeRoundTrip :
    Instr.wellFormed (.init 3) = true ∧ Instr.wellFormed (.hash 0) = true ∧ decode 0x93 = .ok (.hash 3) := by decide

theorem test_hypotheses_DecoderFollowsFields :
    ((0x13 : Byte).toNat / 16 = 0x1 ∧ (0x13 : Byte).toNat / 4 % 4 = 0) ∧
    ((0x93 : Byte).toNat / 16 = 0x9 ∧ (0x93 : Byte).toNat / 4 % 4 = 0) ∧ (0x80 : Byte).toNat = 0x80 := by decide

theorem test_hypotheses_IllegalWordsRaiseOrDrop :
    decode 0xff = .error .reservedOp ∧ decode 0x14 = .error .reservedBits ∧ decode 0x0f = .error .lowBits ∧
    failed.phase = .error ∧ State.reset.phase ≠ .error := by decide

/-! The step. -/

theorem test_hypotheses_StepRunsDecodedCommand :
    State.reset.host = [] ∧
    ((doing (.regWrite 0 8 0xffffffffffffff93) failed).busy = false ∧
      (doing (.regWrite 0 8 0xffffffffffffff93) failed).host = [.regWrite 0 8 0xffffffffffffff93] ∧
      decode (BitVec.ofNat 8 ((0xffffffffffffff93 : Word).toNat % 256)) = .ok (.hash 3)) ∧
    (decode (BitVec.ofNat 8 ((0xa0 : Word).toNat % 256)) = .error .reservedOp ∧ failed.phase = .error ∧
      State.reset.phase ≠ .error) := by decide

/-- A write to MSGLEN, a write to MSG, and a read. -/
theorem test_hypotheses_OnlyCommandWritesMoveTheCore :
    (∃ t, step (doing (.regWrite 0x010 8 5) State.reset) = .next t ∧ decide (t.msglen = 5) = true) ∧
    (∃ t, step (doing (.byteWrite .msg 0 1 5) core256) = .next t ∧ decide (msgAt t 0 = some 5) = true) ∧
    (∃ t, step (doing (.regRead 0 8) State.reset) = .next t ∧ decide (t.rdata = some 0) = true) ∧
    (∀ x, HostEvent.regWrite 0x010 8 5 ≠ .regWrite 0 8 x) ∧ HostEvent.regWrite 0x010 8 5 ≠ .reset :=
  ⟨next_of_answers (by decide +kernel), next_of_answers (by decide +kernel), next_of_answers (by decide +kernel),
    by simp, by decide⟩

theorem test_hypotheses_AccessWhileBusyIsRefused :
    (doing (.regRead 0x008 4) { State.reset with busy := true }).busy = true ∧
    HostEvent.regRead 0x008 4 ≠ .reset ∧ HostEvent.regRead 0x008 4 ≠ .regRead 0x008 8 := by decide

/-! Host accesses. -/

theorem test_hypotheses_RegisterReadReturnsValue :
    ∀ r ∈ [Reg.cmd, .status, .dlen, .h 7, .wv 0, .w 79], (doing (.regRead r.offset 8) State.reset).busy = false ∧
      (doing (.regRead r.offset 8) State.reset).host = [.regRead r.offset 8] := by decide

theorem test_hypotheses_MalformedRegisterAccessFaults :
    (doing (.regRead 0 4) State.reset).busy = false ∧
    ((4 : Nat) ≠ 8 ∨ 0 % 8 ≠ 0) ∧ ((8 : Nat) ≠ 8 ∨ 0x37c % 8 ≠ 0) ∧
    ∀ offset ∈ [0x0C0, 0x0F8, 0x380, 0x3F8], offset % 8 = 0 ∧
      ((0x0C0 ≤ offset ∧ offset ≤ 0x0F8) ∨ (0x380 ≤ offset ∧ offset ≤ 0x3F8)) := by decide

theorem test_hypotheses_RegisterAccessBeyondSpaceFaults :
    (doing (.regWrite 0x400 8 1) State.reset).busy = false ∧ 0x400 % 8 = 0 ∧ 0x400 ≤ 0x400 := by decide

theorem test_hypotheses_MalformedByteAccessFaults :
    (coreIn .idle .narrow).busy = false ∧ (2 : Nat) ≠ 1 ∧ (coreIn .idle .narrow).msgCap.val ≤ 16 ∧
    (coreIn .idle .narrow).msgCap.val + 144 ≤ 160 ∧ 128 ≤ 128 := by decide +kernel

theorem test_hypotheses_MessageMemoryReadsWhatWasWritten :
    (coreIn .idle .narrow).busy = false ∧ 15 < (coreIn .idle .narrow).msgCap.val ∧
    (doing (.byteWrite .msg 15 1 0) (coreIn .idle .narrow)).host = [.byteWrite .msg 15 1 0] ∧
    msgAt (abc (coreIn .idle .narrow)) 2 = some 0x63 ∧ msgAt (abc (coreIn .idle .narrow)) 3 = none := by decide +kernel

theorem test_hypotheses_PadbufAndDigestAccesses :
    prepared.busy = false ∧ prepared.msgCap.val = 16 ∧
    (63 < 16 + 144 ∧ 63 < prepared.padlen.toNat ∧ padAt prepared 63 = some 0x18) ∧
    (64 < 16 + 144 ∧ prepared.padlen.toNat ≤ 64) ∧ (159 < 16 + 144 ∧ prepared.padlen.toNat ≤ 159) ∧
    (127 < 128 ∧ digestAt prepared 127 = some 0) := by decide +kernel

theorem test_hypotheses_ReadOnlyWritesAreIgnored :
    (doing (.regWrite (Reg.w 79).offset 8 1) State.reset).busy = false ∧ Reg.w 79 ≠ .cmd ∧ Reg.w 79 ≠ .msglen ∧
    159 < (coreIn .idle .narrow).msgCap.val + 144 ∧ 127 < 128 := by decide +kernel

theorem test_hypotheses_MsglenWriteStoresValue :
    (doing (.regWrite 0x010 8 0xffffffffffffffff) failed).busy = false ∧
    (doing (.regWrite 0x010 8 0xffffffffffffffff) failed).host = [.regWrite 0x010 8 0xffffffffffffffff] := by decide

theorem test_hypotheses_StatusLayout :
    (doing (.regWrite 0x008 8 0xffff) failed).busy = false ∧
    (doing (.regWrite 0x008 8 0xffff) failed).host = [.regWrite 0x008 8 0xffff] := by decide

theorem test_hypotheses_ResetSetsEveryRegister : (doing .reset finished).host = [.reset] := by decide +kernel

/-! Errors and phases. -/

/-- A raise outside ERROR, a command dropped in ERROR, and the two ways HASH ends in ERROR. -/
theorem test_hypotheses_RaisingMakesNoOtherWrite :
    (∃ t, exec .pad State.reset = .next t ∧ decide (t.phase = .error) = true) ∧
    (∃ t, exec .pad failed = .next t ∧ decide (t.phase = .error) = true) ∧
    (∃ t, exec (.hash 2) State.reset = .next t ∧ decide (t.phase = .error) = true) ∧
    (∃ t, exec (.hash 0) { State.reset with msglen := 0x2000000000000000 } = .next t ∧
      decide (t.phase = .error) = true) :=
  ⟨next_of_answers (by decide +kernel), next_of_answers (by decide +kernel), next_of_answers (by decide +kernel),
    next_of_answers (by decide +kernel)⟩

theorem test_hypotheses_DroppedInError : failed.phase = .error ∧
    (∀ v, decode 0xff ≠ .ok (.init v)) ∧ (∀ v, decode 0xff ≠ .ok (.hash v)) ∧
    (∀ v, decode 0x80 ≠ .ok (.init v)) ∧ (∀ v, decode 0x80 ≠ .ok (.hash v)) := by
  have h₁ : decode 0xff = .error .reservedOp := by decide
  have h₂ : decode 0x80 = .ok .format := by decide
  exact ⟨rfl, fun v h => (by cases h₁.symm.trans h), fun v h => (by cases h₁.symm.trans h),
    fun v h => (by cases h₂.symm.trans h), fun v h => (by cases h₂.symm.trans h)⟩

/-- A state of the invariant in every phase, COMPRESS before and after the last round. -/
theorem test_invariant_states :
    Inv (coreIn .idle .wide) ∧ Inv (after [.init 0] (abc (coreIn .idle .narrow))) ∧
    Inv (after [.init 0, .pad] (abc (coreIn .idle .narrow))) ∧ Inv prepared ∧ Inv expanded ∧ Inv lastRound ∧
    Inv finished ∧ Inv failed :=
  ⟨inv_of_checks (by decide +kernel), inv_of_checks (by decide +kernel), inv_of_checks (by decide +kernel),
    inv_of_checks (by decide +kernel), inv_of_checks (by decide +kernel), inv_of_checks (by decide +kernel),
    inv_of_checks (by decide +kernel), inv_of_checks (by decide +kernel)⟩

/-- With `test_invariant_states`: the rows of R152 at those states. -/
theorem test_hypotheses_PhaseTransitionTable :
    (after [.init 0] (abc (coreIn .idle .narrow))).phase = .preprocess ∧
    (after [.init 0, .pad] (abc (coreIn .idle .narrow))).phase = .parse ∧ prepared.phase = .expandSchedule ∧
    (expanded.phase = .compress ∧ expanded.t.toNat < expanded.cfg.rounds) ∧
    (lastRound.phase = .compress ∧ lastRound.t.toNat = lastRound.cfg.rounds) ∧
    finished.phase = .finalize ∧ failed.phase = .error ∧
    (∀ s ∈ [coreIn .idle .wide, prepared, expanded, lastRound, finished, failed],
      ∀ i ∈ [Instr.nop, .init 1, .init 2, .pad, .parse, .expand, .round, .fold, .compress, .format, .hash 3],
        answers (exec i s) (fun _ => true) = true) := by decide +kernel

theorem test_hypotheses_LeavingErrorTakesANewRun : failed.phase = .error ∧
    (∃ t, step (doing (.regWrite 0 8 0x11) failed) = .next t ∧ decide (t.phase ≠ .error) = true) ∧
    (∃ t, step (doing (.regWrite 0 8 0x90) failed) = .next t ∧ decide (t.phase ≠ .error) = true) ∧
    (∃ t, step (doing .reset failed) = .next t ∧ decide (t.phase ≠ .error) = true) :=
  ⟨rfl, next_of_answers (by decide +kernel), next_of_answers (by decide +kernel), next_of_answers (by decide +kernel)⟩

theorem test_hypotheses_FinalizeEndsTheRun : finished.phase = .finalize := by decide +kernel

/-! The commands. -/

theorem test_hypotheses_NopChangesNothing : 0x01 ≤ (0x01 : Byte).toNat ∧ (0x0F : Byte).toNat ≤ 0x0F := by decide

theorem test_hypotheses_InitStartsARun :
    (((0 : Nat) = 0 ∧ Variant.narrow = .narrow) ∨ ((0 : Nat) = 1 ∧ Variant.narrow = .wide)) ∧
    (((1 : Nat) = 0 ∧ Variant.wide = .narrow) ∨ ((1 : Nat) = 1 ∧ Variant.wide = .wide)) ∧
    ((3 : Nat) = 2 ∨ (3 : Nat) = 3) := by decide

/-- Dropped; out of order; too long at 2^61; over the capacity by one; one byte unwritten; 16 bytes in 16 cells. -/
theorem test_hypotheses_PadStoresPaddedStream :
    failed.phase = .error ∧ (prepared.phase ≠ .error ∧ prepared.phase ≠ .preprocess) ∧
    2 ^ (cfgNarrow defaultConstants).lengthFieldBits ≤ 8 * (0x2000000000000000 : Word).toNat ∧
    8 * (0x1fffffffffffffff : Word).toNat < 2 ^ (cfgNarrow defaultConstants).lengthFieldBits ∧
    (coreIn .preprocess .narrow).msgCap.val < (17 : Word).toNat ∧
    (∃ a, a < (4 : Word).toNat ∧ msgAt (abc (coreIn .preprocess .narrow)) a = none) ∧
    ((16 : Word).toNat ≤ (coreIn .preprocess .wide).msgCap.val ∧
      ∀ a, a < (16 : Word).toNat → msgAt { coreIn .preprocess .wide with
        msg := (List.range 16).map fun k => (k, 0) } a ≠ none) := by decide +kernel

theorem test_hypotheses_ParseCountsBlocks :
    (coreIn .parse .narrow).phase = .parse ∧ (failed.phase = .error) ∧
    8 * (65 : Word).toNat % (coreIn .parse .narrow).cfg.blockBits ≠ 0 ∧
    (8 * (64 : Word).toNat % (coreIn .parse .narrow).cfg.blockBits = 0 ∧ (64 : Word).toNat ≠ 0) ∧
    (coreIn .parse .narrow).padlen.toNat = 0 := by decide +kernel

/-- The block of "abc", byte by byte (V-PAD-3). -/
theorem test_hypotheses_ExpandWritesSchedule :
    prepared.phase = .expandSchedule ∧
    ([0x61, 0x62, 0x63, 0x80] ++ List.replicate 59 0 ++ [0x18] : List Byte).length = prepared.cfg.blockBytes ∧
    ∀ k, k < prepared.cfg.blockBytes →
      prepared.blkidx.toNat * prepared.cfg.blockBytes + k < prepared.padlen.toNat ∧
      padAt prepared (prepared.blkidx.toNat * prepared.cfg.blockBytes + k) =
        ([0x61, 0x62, 0x63, 0x80] ++ List.replicate 59 0 ++ [0x18] : List Byte)[k]? := by decide +kernel

/-- The last round of a wide block, and the state after the last round of a narrow one. -/
theorem test_hypotheses_RoundRunsOneRound :
    ({ coreIn .compress .wide with t := 79 } : State).t.toNat = (79 : Fin 80).val ∧
    ({ coreIn .compress .wide with t := 79 } : State).t.toNat < ({ coreIn .compress .wide with t := 79 } : State).cfg.rounds ∧
    lastRound.phase = .compress ∧ lastRound.t.toNat = lastRound.cfg.rounds ∧ expanded.t.toNat = (0 : Fin 80).val := by
  decide +kernel

theorem test_hypotheses_RoundPastLastRoundFaults :
    ({ coreIn .compress .narrow with t := 65 } : State).cfg.rounds < ({ coreIn .compress .narrow with t := 65 } : State).t.toNat := by
  decide +kernel

/-- The last block of "abc", and the first of two. -/
theorem test_hypotheses_FoldMergesTheBlock :
    (lastRound.phase = .compress ∧ lastRound.t.toNat = lastRound.cfg.rounds ∧
      lastRound.blkidx.toNat < lastRound.nblk.toNat ∧ lastRound.blkidx.toNat + 1 = lastRound.nblk.toNat) ∧
    ({ lastRound with nblk := 2 } : State).blkidx.toNat + 1 < ({ lastRound with nblk := 2 } : State).nblk.toNat ∧
    (expanded.phase = .compress ∧ expanded.t.toNat ≠ expanded.cfg.rounds) := by decide +kernel

theorem test_hypotheses_CompressIsRemainingRoundsThenFold :
    (expanded.phase = .compress ∧ expanded.t.toNat ≤ expanded.cfg.rounds) ∧
    (lastRound.phase = .compress ∧ lastRound.t.toNat ≤ lastRound.cfg.rounds) := by decide +kernel

theorem test_hypotheses_SteppedBlockIsCompressBlock : prepared.phase = .expandSchedule ∧ 64 ≤ prepared.cfg.rounds := by
  decide +kernel

theorem test_hypotheses_FormatShowsHashState :
    failed.phase = .error ∧ State.reset.phase = .idle ∧ finished.phase = .finalize ∧
    (expanded.phase ≠ .error ∧ expanded.phase ≠ .idle) := by decide +kernel

/-- HASH's duties, for the empty message and for one that fills MSG; they are also those of `SteppedRunsEqualHash`, `LeavingErrorTakesANewRun` and `FinalizeEndsTheRun`. -/
theorem test_hypotheses_HashComputesTheDigest :
    (coreIn .finalize .narrow).holdsMessage (cfgNarrow defaultConstants) [] ∧
    State.holdsMessage { coreIn .error .wide with msg := (List.range 16).map fun k => (k, 7), msglen := 16 }
      (cfgWide defaultConstants) (List.replicate 16 7) := by
  constructor <;> (unfold State.holdsMessage; decide +kernel)

theorem test_hypotheses_HashErrorsAndFaults :
    2 ^ (Variant.narrow.cfg defaultConstants).lengthFieldBits ≤ 8 * (0x2000000000000000 : Word).toNat ∧
    (8 * (0xffffffffffffffff : Word).toNat < 2 ^ (Variant.wide.cfg defaultConstants).lengthFieldBits ∧
      core256.msgCap.val < (0xffffffffffffffff : Word).toNat) ∧
    (8 * (1 : Word).toNat < 2 ^ (Variant.wide.cfg defaultConstants).lengthFieldBits ∧ (1 : Word).toNat ≤ core256.msgCap.val ∧
      ∃ a, a < (1 : Word).toNat ∧ msgAt core256 a = none) := by decide +kernel

/-! Whole runs. -/

theorem test_hypotheses_StepKeepsInvariant : Inv (doing (.regWrite 0 8 0x50) expanded) ∧
    ∃ t, step (doing (.regWrite 0 8 0x50) expanded) = .next t ∧ decide (t.t = 1) = true :=
  ⟨inv_of_checks (by decide +kernel), next_of_answers (by decide +kernel)⟩

/-- Two cores in different phases, with different left-over registers and memory, and the same message. -/
theorem test_hypotheses_NoHiddenStateAcrossRuns :
    (abc (coreIn .idle .narrow)).msglen = (abc failed).msglen ∧ (abc (coreIn .idle .narrow)).msgCap = (abc failed).msgCap ∧
    (abc (coreIn .idle .narrow)).constants = (abc failed).constants ∧
    (∀ a, a < (abc (coreIn .idle .narrow)).msglen.toNat →
      msgAt (abc (coreIn .idle .narrow)) a = msgAt (abc failed) a) ∧
    ∃ t, exec (.hash 1) (abc (coreIn .idle .narrow)) = .next t ∧ decide (t.phase = .finalize) = true :=
  ⟨rfl, rfl, rfl, fun _ _ => rfl, next_of_answers (by decide +kernel)⟩

/-- They are also those of `OnlyNamedCommandsWrite`. -/
theorem test_hypotheses_MessageIsReadOnlyByPad :
    (∃ t, exec .fold lastRound = .next t ∧ decide (t.phase = .finalize) = true) ∧
    Instr.fold ≠ .pad ∧ ∀ v, Instr.fold ≠ .hash v :=
  ⟨next_of_answers (by decide +kernel), by decide, by simp⟩

theorem test_hypotheses_InstancesCommute :
    stepInstance 0 [State.reset, State.reset] = .next [State.reset, State.reset] ∧
    stepInstance 1 [State.reset, State.reset] = .next [State.reset, State.reset] ∧ (0 : Nat) ≠ 1 := ⟨rfl, rfl, by decide⟩

/-! The functions. -/

theorem test_hypotheses_WordOperations :
    (0xffffffff : Word).toNat < 2 ^ 32 ∧ 31 < 32 ∧ (0xffffffffffffffff : Word).toNat < 2 ^ 64 ∧ 63 < 64 := by decide

theorem test_hypotheses_MixingFunctions : (0x80000000 : Word).toNat < 2 ^ 32 ∧ 31 < 32 ∧ 63 < 64 := by decide

theorem test_hypotheses_ChoiceAndMajority :
    (0xffffffff : Word).toNat < 2 ^ 32 ∧ (0 : Word).toNat < 2 ^ 32 ∧ 31 < 32 ∧ 63 < 64 := by decide

theorem test_hypotheses_ScheduleRecurrence :
    (List.replicate 64 0xff : List Byte).length = (Variant.narrow.cfg defaultConstants).blockBytes ∧
    (List.replicate 128 0xff : List Byte).length = (Variant.wide.cfg defaultConstants).blockBytes ∧
    (16 ≤ 63 ∧ 63 < (Variant.narrow.cfg defaultConstants).rounds) ∧ (16 ≤ 79 ∧ 79 < (Variant.wide.cfg defaultConstants).rounds) := by decide +kernel

theorem test_hypotheses_PadBitsArePadBytes :
    8 * ([] : List Byte).length < 2 ^ (Variant.narrow.cfg defaultConstants).lengthFieldBits ∧
    8 * (List.replicate 112 0 : List Byte).length < 2 ^ (Variant.wide.cfg defaultConstants).lengthFieldBits := by decide +kernel

theorem test_hypotheses_PaddedLengthIsSmallestMultiple :
    (64 % (Variant.narrow.cfg defaultConstants).blockBytes = 0 ∧ 55 + 1 + (Variant.narrow.cfg defaultConstants).lengthFieldBytes ≤ 64) ∧
    (256 % (Variant.wide.cfg defaultConstants).blockBytes = 0 ∧ 112 + 1 + (Variant.wide.cfg defaultConstants).lengthFieldBytes ≤ 256) := by decide

theorem test_hypotheses_PaddingOverhead : (List.replicate 16 0 : List Byte).length ≤ (coreIn .idle .narrow).msgCap.val := by
  decide +kernel

theorem test_hypotheses_PaddingProperties : ∃ s, padBits (Variant.narrow.cfg defaultConstants) [0xff] = .ok s := ⟨_, rfl⟩

theorem test_hypotheses_ParseBlocksSlices :
    (List.replicate 520 false).length % (Variant.narrow.cfg defaultConstants).blockBits ≠ 0 ∧
    (List.replicate 1024 true).length % (Variant.wide.cfg defaultConstants).blockBits = 0 := by decide +kernel

theorem test_hypotheses_TwoBlockChaining :
    blocksOf (Variant.narrow.cfg defaultConstants) (List.replicate 56 0x61 : List Byte).length = 2 ∧
    blocksOf (Variant.wide.cfg defaultConstants) (List.replicate 239 0x61 : List Byte).length = 2 := by decide +kernel

theorem test_hypotheses_DigestCharacters :
    (hashMessage (Variant.narrow.cfg defaultConstants) []).isOk = true := by decide +kernel

theorem test_hypotheses_BigEndianRoundTrip : 255 < 2 ^ (8 * 1) ∧ 0 < 2 ^ (8 * 0) := by decide

end Sys2Proof.Tests
end

namespace Sys2Proof.Machine

variable {s t : State}

/-! The digest memory (R43, R153, R158). -/

/-- The digest of a hash state is DC characters long (R9, R150). -/
theorem length_formatDigest (v : Variant) (c : Constants) (h : Vector Word 8) :
    (formatDigest (v.cfg c) h).length = (v.cfg c).digestChars := by
  have hsum : (formatDigest (v.cfg c) h).length = 8 * ((v.cfg c).wordBits / 4) := by
    simp [formatDigest, List.length_flatMap]
    omega
  rw [hsum]
  cases v <;> simp

/-- DC is 64 or 128 (R9). -/
theorem digestChars_values (s : State) : s.cfg.digestChars = 64 ∨ s.cfg.digestChars = 128 := by
  unfold State.cfg
  cases s.variant <;> simp

/-- DLEN can hold DC (R37). -/
theorem toNat_digestChars (s : State) : (BitVec.ofNat 8 s.cfg.digestChars).toNat = s.cfg.digestChars := by
  rcases digestChars_values s with h | h <;> rw [h] <;> rfl

/-- The characters and the zeros after them fill DIGEST (R43, R153). -/
theorem length_digestImage (s : State) : s.digestImage.length = 128 := by
  have hlen : (formatDigest s.cfg s.h).length = s.cfg.digestChars := length_formatDigest ..
  rcases digestChars_values s with h | h <;> simp [State.digestImage, hlen, h]

/-- What a DIGEST cell holds after a write that starts at cell 0. -/
theorem read_writeDigest (s : State) (bytes : List Byte) (k : Nat) :
    Memory.read ByteSpace.digest.background (s.writeDigest bytes) k =
      if k < bytes.length then bytes[k]? else Memory.read ByteSpace.digest.background s.digest k := by
  simp [State.writeDigest, Memory.read_writeBytes]

theorem length_blankDigest : blankDigest.length = 128 := List.length_replicate

/-- A raise and INIT leave 0x00 in each of the 128 cells (R43). -/
theorem read_writeDigest_blank (s : State) {k : Nat} (hk : k < 128) :
    Memory.read ByteSpace.digest.background (s.writeDigest blankDigest) k = some 0 := by
  rw [read_writeDigest, length_blankDigest, if_pos hk, blankDigest, List.getElem?_replicate, if_pos hk]

/-- The first DC cells show the digest of the hash state (R153). -/
theorem readBytes_digestImage (s : State) :
    Memory.readBytes ByteSpace.digest.background (s.writeDigest s.digestImage) 0 s.cfg.digestChars =
      some (formatDigest s.cfg s.h) := by
  have hlen : (formatDigest s.cfg s.h).length = s.cfg.digestChars := length_formatDigest ..
  refine (Memory.readBytes_eq_some_iff ..).2 ⟨hlen, fun k hk => ?_⟩
  have hin : k < s.digestImage.length := by
    have := digestChars_values s
    rw [length_digestImage]
    omega
  rw [Nat.zero_add, read_writeDigest, if_pos hin, State.digestImage, List.getElem?_append_left (by omega)]

/-- The cells after the digest hold 0x00 (R43, R153). -/
theorem read_digestImage_tail (s : State) {k : Nat} (hd : s.cfg.digestChars ≤ k) (hk : k < 128) :
    Memory.read ByteSpace.digest.background (s.writeDigest s.digestImage) k = some 0 := by
  have hlen : (formatDigest s.cfg s.h).length = s.cfg.digestChars := length_formatDigest ..
  rw [read_writeDigest, if_pos (by rwa [length_digestImage]), State.digestImage,
    List.getElem?_append_right (by omega), List.getElem?_replicate, if_pos (by omega)]

/-! Narrow words (R24, R45 item 10). -/

theorem cfg_of_variant_narrow (h : s.variant = .narrow) : s.cfg = cfgNarrow s.constants := by
  simp [State.cfg, h]

theorem fitsNarrow_zero : fitsNarrow 0 := by simp [fitsNarrow]

theorem fitsNarrow_addW (x y : Word) : fitsNarrow (addW 32 x y) := addW_lt (by decide) x y

/-- A big-endian integer of N bytes is below 256^N (R87). -/
theorem beNat_lt (bytes : List Byte) : beNat bytes < 256 ^ bytes.length := by
  induction bytes using List.reverseRecOn with
  | nil => simp [beNat]
  | append_singleton bytes b ih =>
    have hstep : beNat (bytes ++ [b]) = 256 * beNat bytes + b.toNat := by simp [beNat, List.foldl_append]
    have hb : b.toNat < 256 := b.isLt
    rw [hstep, List.length_append, List.length_singleton, pow_succ]
    omega

/-- Four bytes make a narrow word (R62). -/
theorem fitsNarrow_blockWord (c : Constants) (block : List Byte) (i : Nat) :
    fitsNarrow (blockWord (cfgNarrow c) block i) := by
  rw [fitsNarrow, blockWord, cfgNarrow_wordBytes]
  generalize hb : (block.drop (i * 4)).take 4 = bytes
  have hlen : bytes.length ≤ 4 := hb ▸ List.length_take_le ..
  calc (BitVec.ofNat 64 (beNat bytes)).toNat
      ≤ beNat bytes := by simpa using Nat.mod_le ..
    _ < 256 ^ bytes.length := beNat_lt bytes
    _ ≤ 256 ^ 4 := Nat.pow_le_pow_right (by decide) hlen
    _ = 2 ^ 32 := by decide

theorem fitsNarrow_extendSchedule (c : Constants) (n : Nat) :
    ∀ ws : List Word, (∀ x ∈ ws, fitsNarrow x) → ∀ x ∈ extendSchedule (cfgNarrow c) n ws, fitsNarrow x := by
  induction n with
  | zero => intro ws hws; exact hws
  | succ n ih =>
    intro ws hws
    have hnext : fitsNarrow (nextWord (cfgNarrow c) ws) := sumW_lt (w := 32) (by decide) _
    exact ih _ (by simpa [or_imp, forall_and] using And.intro hws hnext)

/-- Every word of a narrow schedule is a narrow word (R134, R135). -/
theorem fitsNarrow_expand (c : Constants) (block : List Byte) : ∀ x ∈ expand (cfgNarrow c) block, fitsNarrow x := by
  refine fitsNarrow_extendSchedule c _ _ fun x hx => ?_
  obtain ⟨i, _, rfl⟩ := List.mem_map.1 hx
  exact fitsNarrow_blockWord c block i

theorem fitsNarrow_scheduleRegisters {ws : List Word} (h : ∀ x ∈ ws, fitsNarrow x) (i : Fin 80) :
    fitsNarrow (scheduleRegisters ws)[i] := by
  by_cases hi : i.val < ws.length
  · simpa [scheduleRegisters, hi] using h _ (List.getElem_mem hi)
  · simpa [scheduleRegisters, hi] using fitsNarrow_zero

/-- A round gives two sums and moves the other six words (R140). -/
theorem fitsNarrow_compressRound (c : Constants) {wv : Vector Word 8} (h : ∀ j : Fin 8, fitsNarrow wv[j])
    (wi ki : Word) (j : Fin 8) : fitsNarrow (compressRound (cfgNarrow c) wv wi ki)[j] := by
  match j with
  | 0 => exact fitsNarrow_addW ..
  | 1 => exact h 0
  | 2 => exact h 1
  | 3 => exact h 2
  | 4 => exact fitsNarrow_addW ..
  | 5 => exact h 4
  | 6 => exact h 5
  | 7 => exact h 6

theorem fitsNarrow_runRounds (c : Constants) (schedule : List Word) (n : Nat) :
    ∀ (i : Nat) (wv : Vector Word 8), (∀ j : Fin 8, fitsNarrow wv[j]) →
      ∀ j : Fin 8, fitsNarrow (runRounds (cfgNarrow c) schedule n i wv)[j] := by
  induction n with
  | zero => intro i wv h; exact h
  | succ n ih => intro i wv h; exact ih _ _ (fitsNarrow_compressRound c h _ _)

theorem fitsNarrow_foldWords (c : Constants) (state wv : Vector Word 8) (j : Fin 8) :
    fitsNarrow (foldWords (cfgNarrow c) state wv)[j] := by
  simpa [foldWords] using fitsNarrow_addW state[j] wv[j]

/-! The padded stream (R121 to R123). -/

/-- The padding adds at most 144 bytes (R123). -/
theorem length_padBytes_le (v : Variant) (c : Constants) (m : List Byte) :
    (padBytes (v.cfg c) m).length ≤ m.length + Config.padSlack := by
  rw [length_padBytes]
  cases v <;> simp [zeroBytes, Config.padSlack] <;> omega

theorem length_padBytes_pos (cfg : VariantConfig) (m : List Byte) : 0 < (padBytes cfg m).length := by
  rw [length_padBytes]
  omega

/-- The message in MSG is MSGLEN bytes long (R41). -/
theorem length_message {m : List Byte} (h : s.message = some m) : m.length = s.msglen.toNat :=
  ((Memory.readBytes_eq_some_iff ..).1 h).1

/-- Whole blocks in bytes are whole blocks in bits (R9). -/
theorem bits_mod_blockBits_eq_zero {n : Nat} (h : n % s.cfg.blockBytes = 0) : 8 * n % s.cfg.blockBits = 0 := by
  revert h
  unfold State.cfg
  cases s.variant <;> simp <;> omega

end Sys2Proof.Machine

namespace Sys2Proof.Machine

/-! What a command can do to the state, said once.  `Carried` of the model's laws asks of a property that a raise under every code keeps it, noError included, and no invariant that ties PHASE to ERR survives that raise; an effect names the codes and the phases of the raises that a command makes. -/

/-- What a command other than HASH can make of a state: nothing (NOP, or a drop in ERROR), one raise under the code of an error, or the writes of its own rule in a phase in which it is legal. -/
inductive Effect : Instr → State → State → Prop
  | kept {i s} : i = .nop ∨ s.phase = .error → Effect i s s
  | raised {i s} (e : ErrKind) : e ≠ .noError → (s.phase = .error → ∃ v, i = .init v) → Effect i s (raiseError e s)
  | init {v s} (x : Variant) : select v = some x → Effect (.init v) s (beginRun x s)
  | pad {s} (m : List Byte) : s.phase = .preprocess → tooLong s.cfg s.msglen.toNat = false →
      s.msglen.toNat ≤ s.msgCap.val → s.message = some m → (padBytes s.cfg m).length % s.cfg.blockBytes = 0 →
      Effect .pad s { s with
        padbuf := Memory.writeBytes ByteSpace.padbuf.background s.padbuf 0 (padBytes s.cfg m)
        padlen := BitVec.ofNat 64 (padBytes s.cfg m).length
        phase := .parse }
  | parse {s} : s.phase = .parse → s.blockCount ≠ 0 →
      Effect .parse s { setBlockCount s with phase := .expandSchedule }
  | parseNoBlock {s} : s.phase = .parse → s.blockCount = 0 → Effect .parse s (finalize (setBlockCount s))
  | expand {s} : s.phase = .expandSchedule →
      Effect .expand s { s with
        w := scheduleRegisters (Sys2Proof.Machine.expand s.cfg s.currentBlock), wv := s.h, t := 0, phase := .compress }
  | round {s} : s.phase = .compress → s.t.toNat < s.cfg.rounds → Effect .round s (roundStep s)
  | fold {s t} : s.phase = .compress → s.t.toNat = s.cfg.rounds → foldBody s = .next t → Effect .fold s t
  | compress {s t} : s.phase = .compress → foldBody (finishRounds s) = .next t → Effect .compress s t
  | format {s} : s.phase ≠ .idle → s.phase ≠ .error → Effect .format s (showDigest s.dvAfterFormat s)

variable {s t : State} {i c : Instr} {body : State → Res}

/-- The phase check adds a drop and a SequenceError to what a body does (R151). -/
theorem gated_effect (hb : s.phase ≠ .error → s.legal i = true → body s = .next t → Effect i s t)
    (h : gated i body s = .next t) : Effect i s t := by
  rcases gated_next h with ⟨he, rfl⟩ | ⟨he, hl, h⟩ | ⟨he, _, rfl⟩
  · exact .kept (.inr he)
  · exact hb he hl h
  · exact .raised _ (by decide) fun hp => absurd hp he

theorem initBody_effect {v : Nat} (h : initBody v s = .next t) : Effect (.init v) s t := by
  rcases initBody_cases v s with ⟨x, hv, hx⟩ | ⟨_, hx⟩ <;> cases hx.symm.trans h
  · exact .init x hv
  · exact .raised _ (by decide) fun _ => ⟨v, rfl⟩

/-- PAD, and the PAD of HASH, which differs from it in the name of a fault only. -/
theorem padPart_effect (h : gated .pad (padBody c) s = .next t) : Effect .pad s t := by
  refine gated_effect (fun he hl hb => ?_) h
  rcases padBody_next hb with ⟨_, rfl⟩ | ⟨hshort, hcap, m, hm, hlen, rfl⟩
  · exact .raised _ (by decide) fun hp => absurd hp he
  · exact .pad m (by simpa [State.legal] using hl) hshort hcap hm hlen

theorem parsePart_effect (h : gated .parse parseBody s = .next t) : Effect .parse s t := by
  refine gated_effect (fun he hl hb => ?_) h
  have hp : s.phase = .parse := by simpa [State.legal] using hl
  rcases parseBody_cases s with ⟨_, hx⟩ | ⟨_, h0, hx⟩ | ⟨_, h0, hx⟩ <;> cases hx.symm.trans hb
  · exact .raised _ (by decide) fun hp => absurd hp he
  · exact .parseNoBlock hp h0
  · exact .parse hp h0

theorem expandPart_effect (h : gated .expand expandBody s = .next t) : Effect .expand s t := by
  refine gated_effect (fun _ hl hb => ?_) h
  cases hb
  exact .expand (by simpa [State.legal] using hl)

theorem roundPart_effect (h : gated .round roundBody s = .next t) : Effect .round s t := by
  refine gated_effect (fun _ hl hb => ?_) h
  obtain ⟨hp, ht⟩ : s.phase = .compress ∧ s.t.toNat ≠ s.cfg.rounds := by simpa [State.legal] using hl
  unfold roundBody at hb
  split at hb <;> cases hb
  exact .round hp (by omega)

theorem foldPart_effect (h : gated .fold foldBody s = .next t) : Effect .fold s t := by
  refine gated_effect (fun _ hl hb => ?_) h
  obtain ⟨hp, ht⟩ : s.phase = .compress ∧ s.t.toNat = s.cfg.rounds := by simpa [State.legal] using hl
  exact .fold hp ht hb

theorem compressPart_effect (h : gated .compress compressBody s = .next t) : Effect .compress s t :=
  gated_effect (fun _ hl hb => .compress (by simpa [State.legal] using hl) hb) h

theorem formatPart_effect (h : gated .format formatBody s = .next t) : Effect .format s t := by
  refine gated_effect (fun he hl hb => ?_) h
  cases hb
  exact .format (by simpa [State.legal] using hl) he

/-- The two states that FOLD's body answers (R145). -/
theorem foldBody_next (h : foldBody s = .next t) :
    (s.blkidx.toNat + 1 < s.nblk.toNat ∧ t = { mergeBlock s with phase := .expandSchedule }) ∨
    (s.nblk.toNat ≤ s.blkidx.toNat + 1 ∧ t = finalize (mergeBlock s)) := by
  rcases foldBody_cases s with ⟨hlt, hx⟩ | ⟨hle, hx⟩ <;> cases hx.symm.trans h
  · exact .inl ⟨hlt, rfl⟩
  · exact .inr ⟨hle, rfl⟩

/-- Every command but HASH has one effect. -/
theorem exec_effect (hi : ∀ v, i ≠ .hash v) (h : exec i s = .next t) : Effect i s t := by
  cases i with
  | nop =>
    obtain rfl : s = t := by injection h
    exact .kept (.inl rfl)
  | init v => exact initBody_effect h
  | pad => exact padPart_effect h
  | parse => exact parsePart_effect h
  | expand => exact expandPart_effect h
  | round => exact roundPart_effect h
  | fold => exact foldPart_effect h
  | compress => exact compressPart_effect h
  | format => exact formatPart_effect h
  | hash v => exact absurd rfl (hi v)

/-- Some command's effect takes the first state to the second. -/
def SomeEffect (s t : State) : Prop := ∃ i, Effect i s t

/-- The effects of commands, one after another. -/
abbrev Effects : State → State → Prop := Relation.ReflTransGen SomeEffect

theorem Effect.effects (h : Effect i s t) : Effects s t := .single ⟨i, h⟩

/-- The effects of a sequence of two parts of HASH (R159). -/
theorem andThen_effects {r : Res} {next : State → Res} (h : andThen r next = .next t)
    (hr : ∀ {u}, r = .next u → Effects s u) (hn : ∀ {u}, next u = .next t → Effects u t) : Effects s t := by
  obtain ⟨u, hu, ⟨_, rfl⟩ | ⟨_, h⟩⟩ := andThen_next h
  · exact hr hu
  · exact (hr hu).trans (hn h)

theorem hashBlock_effects (h : hashBlock s = .next t) : Effects s t :=
  andThen_effects h (fun hu => (expandPart_effect hu).effects) fun hu => (compressPart_effect hu).effects

theorem hashLoop_effects (n : Nat) : ∀ {s t : State}, hashLoop n s = .next t → Effects s t := by
  induction n with
  | zero =>
    intro s t h
    cases h
    exact .refl
  | succ n ih =>
    intro s t h
    unfold hashLoop at h
    split at h
    · exact andThen_effects h hashBlock_effects ih
    · cases h
      exact .refl

theorem hashRun_effects (h : hashRun c s = .next t) : Effects s t :=
  andThen_effects h
    (fun hu => andThen_effects hu (fun hw => (padPart_effect hw).effects) fun hw => (parsePart_effect hw).effects)
    (hashLoop_effects _)

/-- HASH performs the other commands (R159), so every command is a sequence of effects. -/
theorem exec_effects (h : exec i s = .next t) : Effects s t := by
  cases i with
  | hash v => exact andThen_effects h (fun hu => (initBody_effect hu).effects) hashRun_effects
  | nop | init _ | pad | parse | expand | round | fold | compress | format =>
    exact (exec_effect (by simp) h).effects

/-! The invariant of R45. -/

theorem Inv.err_eq_noError (hs : Inv s) (hp : s.phase ≠ .error) : s.err = .noError := by
  by_contra he
  exact hp (hs.error_iff.2 he)

theorem Inv.dv_eq_false (hs : Inv s) (hp : s.phase ≠ .finalize) : s.dv = false := by
  by_contra hd
  exact hp (hs.dv_iff.1 (by simpa using hd))

/-- The invariant says nothing of the host's side of the interface. -/
theorem Inv.hostSide (hs : Inv s) (host : List HostEvent) (rdata : Option Word) (draws : Nat) :
    Inv { s with host := host, rdata := rdata, draws := draws } := { hs with }

/-- MSGLEN is the host's in every phase (R54). -/
theorem Inv.msglen (hs : Inv s) (x : Word) : Inv { s with msglen := x } := { hs with }

/-- A write inside MSG keeps the invariant (R56). -/
theorem Inv.msgWrite (hs : Inv s) {addr : Nat} (b : Byte) (ha : addr < s.msgCap.val) :
    Inv { s with msg := Memory.write ByteSpace.msg.background s.msg addr b } := by
  obtain ⟨hmsg, hpad, hdig⟩ := hs.memories_wf
  obtain ⟨imsg, ipad, idig⟩ := hs.memories_inside
  have hin : ∀ cell ∈ Memory.write ByteSpace.msg.background s.msg addr b, cell.1 < s.msgCap.val := by
    intro cell hc
    rcases Memory.mem_write hc with rfl | hc
    · exact ha
    · exact imsg cell hc
  exact { hs with
    memories_wf := ⟨Memory.wf_write addr b hmsg, hpad, hdig⟩
    memories_inside := ⟨hin, ipad, idig⟩ }

/-- A write of DIGEST keeps the canonical form of the memories. -/
theorem Inv.memories_wf_writeDigest (hs : Inv s) (bytes : List Byte) :
    Memory.wf ByteSpace.msg.background s.msg = true ∧ Memory.wf ByteSpace.padbuf.background s.padbuf = true ∧
    Memory.wf ByteSpace.digest.background (s.writeDigest bytes) = true := by
  obtain ⟨hmsg, hpad, hdig⟩ := hs.memories_wf
  exact ⟨hmsg, hpad, Memory.wf_writeBytes bytes 0 hdig⟩

/-- A write of DIGEST that fits its 128 cells lists no cell outside a space. -/
theorem Inv.memories_inside_writeDigest (hs : Inv s) {bytes : List Byte} (hb : bytes.length = 128) :
    (∀ cell ∈ s.msg, cell.1 < s.spaceSize .msg) ∧ (∀ cell ∈ s.padbuf, cell.1 < s.spaceSize .padbuf) ∧
    (∀ cell ∈ s.writeDigest bytes, cell.1 < s.spaceSize .digest) := by
  obtain ⟨imsg, ipad, idig⟩ := hs.memories_inside
  refine ⟨imsg, ipad, fun cell hc => ?_⟩
  rcases Memory.mem_writeBytes bytes hc with ⟨_, hc⟩ | hc
  · simpa [State.spaceSize, hb] using hc
  · exact idig cell hc

theorem inv_resetWith (msgCap : Fin (Config.msgCapMax + 1)) (constants : Constants) :
    Inv (State.resetWith msgCap constants) where
  error_iff := by simp
  dv_iff := by simp
  t_le := by simp
  blkidx_le := by simp
  blkidx_lt := by simp [Phase.inBlock]
  finalized := by simp
  padded_blocks := by simp [Phase.padded]
  nblk_eq := by simp [Phase.counted]
  narrow_words := by simp [fitsNarrow]
  narrow_schedule := by simp [fitsNarrow]
  not_busy := rfl
  dlen_values := .inl rfl
  digest_tail := fun _ _ _ => rfl
  stream_stored := by simp [Phase.padded]
  stream_fits := by simp
  memories_wf := by simp
  memories_inside := by simp

theorem inv_resetCore (s : State) : Inv (resetCore s) :=
  (inv_resetWith s.msgCap s.constants).hostSide s.host s.rdata s.draws

/-- A raise under the code of an error keeps the invariant in every phase (R168). -/
theorem Inv.raiseError (hs : Inv s) {e : ErrKind} (he : e ≠ .noError) : Inv (raiseError e s) :=
  { hs with
    error_iff := by simp [he]
    dv_iff := by simp
    blkidx_lt := by simp [Phase.inBlock]
    finalized := by simp
    padded_blocks := by simp [Phase.padded]
    nblk_eq := by simp [Phase.counted]
    dlen_values := .inl rfl
    digest_tail := fun k _ hk => by simpa using read_writeDigest_blank s hk
    stream_stored := by simp [Phase.padded]
    memories_wf := by simpa using hs.memories_wf_writeDigest blankDigest
    memories_inside := by simpa [State.spaceSize, State.padCap] using hs.memories_inside_writeDigest length_blankDigest }

/-- INIT keeps the invariant in every phase (R157). -/
theorem Inv.beginRun (hs : Inv s) (x : Variant) : Inv (beginRun x s) :=
  { hs with
    error_iff := by simp
    dv_iff := by simp
    t_le := by simp
    blkidx_le := by simp
    blkidx_lt := by simp [Phase.inBlock]
    finalized := by simp
    padded_blocks := by simp [Phase.padded]
    nblk_eq := by simp [Phase.counted]
    narrow_words := by
      rintro rfl j
      exact ⟨initialState_lt .narrow s.constants j, by simp [fitsNarrow]⟩
    narrow_schedule := by simp [fitsNarrow]
    dlen_values := .inl rfl
    digest_tail := fun k _ hk => by simpa using read_writeDigest_blank s hk
    stream_stored := by simp [Phase.padded]
    stream_fits := by simp
    memories_wf := by simpa using hs.memories_wf_writeDigest blankDigest
    memories_inside := by simpa [State.spaceSize, State.padCap] using hs.memories_inside_writeDigest length_blankDigest }

/-- The padded stream of the message in MSG fits PADBUF, and PADLEN can hold its length (R31, R123). -/
theorem length_padBytes_message {m : List Byte} (hcap : s.msglen.toNat ≤ s.msgCap.val) (hm : s.message = some m) :
    (padBytes s.cfg m).length ≤ s.padCap ∧
    (BitVec.ofNat 64 (padBytes s.cfg m).length).toNat = (padBytes s.cfg m).length := by
  have hlen : (padBytes s.cfg m).length ≤ m.length + Config.padSlack := length_padBytes_le ..
  have hmax : s.msgCap.val < Config.msgCapMax + 1 := s.msgCap.isLt
  rw [length_message hm] at hlen
  simp only [Config.padSlack, Config.msgCapMax] at hlen hmax
  refine ⟨by simp only [State.padCap, Config.padSlack]; omega, ?_⟩
  rw [BitVec.toNat_ofNat]
  exact Nat.mod_eq_of_lt (by omega)

/-- PAD keeps the invariant (R126). -/
theorem Inv.pad (hs : Inv s) {m : List Byte} (hp : s.phase = .preprocess) (hcap : s.msglen.toNat ≤ s.msgCap.val)
    (hm : s.message = some m) (hlen : (padBytes s.cfg m).length % s.cfg.blockBytes = 0) :
    Inv { s with
      padbuf := Memory.writeBytes ByteSpace.padbuf.background s.padbuf 0 (padBytes s.cfg m)
      padlen := BitVec.ofNat 64 (padBytes s.cfg m).length
      phase := .parse } := by
  obtain ⟨hfit, hn⟩ := length_padBytes_message hcap hm
  obtain ⟨hmsg, hpad, hdig⟩ := hs.memories_wf
  obtain ⟨imsg, ipad, idig⟩ := hs.memories_inside
  refine { hs with
    error_iff := by simp [hs.err_eq_noError, hp]
    dv_iff := by simp [hs.dv_eq_false, hp]
    blkidx_lt := by simp [Phase.inBlock]
    finalized := by simp
    padded_blocks := fun _ => hn.symm ▸ ⟨length_padBytes_pos .., bits_mod_blockBits_eq_zero hlen⟩
    nblk_eq := by simp [Phase.counted]
    stream_stored := fun _ a ha => ?_
    stream_fits := hn.le.trans hfit
    memories_wf := ⟨hmsg, Memory.wf_writeBytes _ 0 hpad, hdig⟩
    memories_inside := ⟨imsg, fun cell hc => ?_, idig⟩ }
  · have ha : a < (padBytes s.cfg m).length := hn ▸ ha
    rw [Memory.read_writeBytes, if_pos (by omega), Nat.sub_zero, List.getElem?_eq_getElem ha]
    rfl
  · rcases Memory.mem_writeBytes (padBytes s.cfg m) hc with ⟨_, hc⟩ | hc
    · exact Nat.lt_of_lt_of_le hc ((Nat.zero_add _).trans_le hfit)
    · exact ipad cell hc

/-- NBLK can hold the block count (R30). -/
theorem toNat_blockCount (s : State) : (BitVec.ofNat 64 s.blockCount).toNat = s.blockCount := by
  rw [BitVec.toNat_ofNat]
  refine Nat.mod_eq_of_lt ?_
  have hpad : s.padlen.toNat < 2 ^ 64 := s.padlen.isLt
  unfold State.blockCount State.cfg
  cases s.variant <;> simp <;> omega

/-- PARSE keeps the invariant when it counts a block (R132). -/
theorem Inv.parse (hs : Inv s) (hp : s.phase = .parse) (h0 : s.blockCount ≠ 0) :
    Inv { setBlockCount s with phase := .expandSchedule } :=
  { hs with
    error_iff := by simp [hs.err_eq_noError, hp]
    dv_iff := by simp [hs.dv_eq_false, hp]
    blkidx_le := Nat.zero_le _
    blkidx_lt := fun _ => (Nat.pos_of_ne_zero h0).trans_eq (toNat_blockCount s).symm
    finalized := by simp
    padded_blocks := fun _ => hs.padded_blocks (by rw [hp]; rfl)
    nblk_eq := fun _ => toNat_blockCount s
    stream_stored := fun _ => hs.stream_stored (by rw [hp]; rfl) }

/-- In PARSE there is a block to count (R45 item 8). -/
theorem Inv.blockCount_ne_zero (hs : Inv s) (hp : s.phase = .parse) : s.blockCount ≠ 0 := by
  obtain ⟨hpos, hmod⟩ := hs.padded_blocks (by rw [hp]; rfl)
  intro h0
  have hdiv := Nat.div_add_mod (8 * s.padlen.toNat) s.cfg.blockBits
  rw [hmod, ← State.blockCount, h0] at hdiv
  omega

/-- EXPAND keeps the invariant (R138). -/
theorem Inv.expand (hs : Inv s) (hp : s.phase = .expandSchedule) :
    Inv { s with
      w := scheduleRegisters (Sys2Proof.Machine.expand s.cfg s.currentBlock), wv := s.h, t := 0, phase := .compress } :=
  { hs with
    error_iff := by simp [hs.err_eq_noError, hp]
    dv_iff := by simp [hs.dv_eq_false, hp]
    t_le := Nat.zero_le _
    blkidx_lt := fun _ => hs.blkidx_lt (by rw [hp]; rfl)
    finalized := by simp
    padded_blocks := fun _ => hs.padded_blocks (by rw [hp]; rfl)
    nblk_eq := fun _ => hs.nblk_eq (by rw [hp]; rfl)
    narrow_words := fun hv j => ⟨(hs.narrow_words hv j).1, (hs.narrow_words hv j).1⟩
    narrow_schedule := fun hv => fitsNarrow_scheduleRegisters (by
      rw [cfg_of_variant_narrow (s := s) hv]
      exact fitsNarrow_expand _ _)
    stream_stored := fun _ => hs.stream_stored (by rw [hp]; rfl) }

/-- ROUND keeps the invariant (R144). -/
theorem Inv.roundStep (hs : Inv s) (ht : s.t.toNat < s.cfg.rounds) : Inv (roundStep s) :=
  { hs with
    t_le := by
      simp only [roundStep_t, roundStep_cfg, BitVec.toNat_add]
      exact (Nat.mod_le _ _).trans ht
    narrow_words := fun hv j => ⟨(hs.narrow_words hv j).1, by
      rw [roundStep_wv, cfg_of_variant_narrow (s := s) hv]
      exact fitsNarrow_compressRound _ (fun j => (hs.narrow_words hv j).2) _ _ j⟩ }

/-- T can hold the number of rounds (R28). -/
theorem toNat_rounds (s : State) : (BitVec.ofNat 7 s.cfg.rounds).toNat = s.cfg.rounds :=
  (BitVec.toNat_ofNat ..).trans (Nat.mod_eq_of_lt (Variant.rounds_lt ..))

/-- The remaining rounds of a block keep the invariant (R146). -/
theorem Inv.finishRounds (hs : Inv s) : Inv (finishRounds s) :=
  { hs with
    t_le := (toNat_rounds s).le
    narrow_words := fun hv j => ⟨(hs.narrow_words hv j).1, by
      rw [finishRounds_wv, cfg_of_variant_narrow (s := s) hv]
      exact fitsNarrow_runRounds _ _ _ _ _ (fun j => (hs.narrow_words hv j).2) j⟩ }

/-- The next block number fits BLKIDX while a block is in hand (R45 item 6). -/
theorem Inv.toNat_blkidx_succ (hs : Inv s) (hp : s.phase = .compress) :
    (s.blkidx + 1).toNat = s.blkidx.toNat + 1 ∧ s.blkidx.toNat < s.nblk.toNat := by
  have hlt := hs.blkidx_lt (by rw [hp]; rfl)
  have hmax : s.nblk.toNat < 2 ^ 64 := s.nblk.isLt
  refine ⟨?_, hlt⟩
  rw [BitVec.toNat_add]
  exact Nat.mod_eq_of_lt (show s.blkidx.toNat + 1 < 2 ^ 64 by omega)

theorem Inv.narrow_words_mergeBlock (hs : Inv s) (hv : s.variant = .narrow) (j : Fin 8) :
    fitsNarrow (mergeBlock s).h[j] ∧ fitsNarrow s.wv[j] := by
  rw [mergeBlock_h, cfg_of_variant_narrow hv]
  exact ⟨fitsNarrow_foldWords .., (hs.narrow_words hv j).2⟩

/-- The fold of a block that is not the last keeps the invariant (R145). -/
theorem Inv.mergeBlock_next (hs : Inv s) (hp : s.phase = .compress) (hlt : s.blkidx.toNat + 1 < s.nblk.toNat) :
    Inv { mergeBlock s with phase := .expandSchedule } := by
  obtain ⟨hsucc, _⟩ := hs.toNat_blkidx_succ hp
  exact { hs with
    error_iff := by simp [hs.err_eq_noError, hp]
    dv_iff := by simp [hs.dv_eq_false, hp]
    blkidx_le := hsucc.trans_le hlt.le
    blkidx_lt := fun _ => hsucc.trans_lt hlt
    finalized := by simp
    padded_blocks := fun _ => hs.padded_blocks (by rw [hp]; rfl)
    nblk_eq := fun _ => hs.nblk_eq (by rw [hp]; rfl)
    narrow_words := hs.narrow_words_mergeBlock
    stream_stored := fun _ => hs.stream_stored (by rw [hp]; rfl) }

/-- The fold of the last block, with the entry into FINALIZE, keeps the invariant (R145, R153). -/
theorem Inv.mergeBlock_last (hs : Inv s) (hp : s.phase = .compress) (hle : s.nblk.toNat ≤ s.blkidx.toNat + 1) :
    Inv (finalize (mergeBlock s)) := by
  obtain ⟨hsucc, hlt⟩ := hs.toNat_blkidx_succ hp
  have hlast : s.blkidx + 1 = s.nblk := BitVec.eq_of_toNat_eq (by omega)
  have hdlen : (finalize (mergeBlock s)).dlen.toNat = (mergeBlock s).cfg.digestChars := toNat_digestChars _
  exact { hs with
    error_iff := by simp [hs.err_eq_noError, hp]
    dv_iff := by simp
    blkidx_le := (congrArg BitVec.toNat hlast).le
    blkidx_lt := by simp [Phase.inBlock]
    finalized := fun _ => ⟨hlast, hdlen, by
      rw [hdlen, finalize_digest]
      exact readBytes_digestImage _⟩
    padded_blocks := fun _ => hs.padded_blocks (by rw [hp]; rfl)
    nblk_eq := fun _ => hs.nblk_eq (by rw [hp]; rfl)
    narrow_words := hs.narrow_words_mergeBlock
    dlen_values := .inr (hdlen ▸ digestChars_values _)
    digest_tail := fun k hk => read_digestImage_tail (mergeBlock s) (hdlen ▸ hk)
    stream_stored := fun _ => hs.stream_stored (by rw [hp]; rfl)
    memories_wf := hs.memories_wf_writeDigest _
    memories_inside := hs.memories_inside_writeDigest (length_digestImage _) }

/-- FOLD's body keeps the invariant (R145). -/
theorem Inv.foldBody (hs : Inv s) (hp : s.phase = .compress) (h : foldBody s = .next t) : Inv t := by
  rcases foldBody_next h with ⟨hlt, rfl⟩ | ⟨hle, rfl⟩
  · exact hs.mergeBlock_next hp hlt
  · exact hs.mergeBlock_last hp hle

/-- FORMAT keeps the invariant (R158): in FINALIZE it writes the digest that DIGEST holds. -/
theorem Inv.format (hs : Inv s) : Inv (showDigest s.dvAfterFormat s) := by
  have hdlen : (showDigest s.dvAfterFormat s).dlen.toNat = s.cfg.digestChars := toNat_digestChars s
  exact { hs with
    dv_iff := by simp [State.dvAfterFormat]
    finalized := fun hf => ⟨(hs.finalized hf).1, hdlen, by
      rw [hdlen, showDigest_digest]
      exact readBytes_digestImage s⟩
    dlen_values := .inr (hdlen ▸ digestChars_values s)
    digest_tail := fun k hk => read_digestImage_tail s (hdlen ▸ hk)
    memories_wf := hs.memories_wf_writeDigest _
    memories_inside := hs.memories_inside_writeDigest (length_digestImage s) }

/-- Every effect keeps the invariant. -/
theorem Effect.inv (h : Effect i s t) (hs : Inv s) : Inv t := by
  cases h with
  | kept hi => exact hs
  | raised e he hi => exact hs.raiseError he
  | init x hv => exact hs.beginRun x
  | pad m hp hshort hcap hm hlen => exact hs.pad hp hcap hm hlen
  | parse hp h0 => exact hs.parse hp h0
  | parseNoBlock hp h0 => exact absurd h0 (hs.blockCount_ne_zero hp)
  | expand hp => exact hs.expand hp
  | round hp ht => exact hs.roundStep ht
  | fold hp ht hb => exact hs.foldBody hp hb
  | compress hp hb => exact hs.finishRounds.foldBody hp hb
  | format hi he => exact hs.format

/-- Every command keeps the invariant, HASH included. -/
theorem Inv.exec (hs : Inv s) (h : exec i s = .next t) : Inv t := by
  have hrun := exec_effects h
  clear h
  induction hrun with
  | refl => exact hs
  | tail _ h ih =>
    obtain ⟨_, h⟩ := h
    exact h.inv ih

/-- Every event keeps the invariant. -/
theorem Inv.performEvent {a : HostEvent} (hs : Inv s) (h : performEvent a s = .next t) : Inv t := by
  rcases performEvent_next h with ⟨x, rfl⟩ | rfl | ⟨x, rfl⟩ | ⟨addr, b, ha, rfl⟩ | ⟨_, rfl⟩ | ⟨_, rfl⟩ |
    ⟨_, _, _, i, _, _, h⟩
  · exact hs.hostSide s.host (some x) s.draws
  · exact hs
  · exact hs.msglen x
  · exact hs.msgWrite b ha
  · exact inv_resetCore s
  · exact hs.raiseError (by decide)
  · exact hs.exec h

end Sys2Proof.Machine

namespace Sys2Proof.Proofs

open Sys2Proof.Machine Sys2Proof.Claims

/-- Settles O37, at the open MSG_CAP with the default constants and at every other choice of both. -/
theorem invariantHoldsAtReset : Obligations.InvariantHoldsAtReset :=
  ⟨inv_resetWith _ _, inv_resetWith⟩

/-- Settles O38: a step holds the state, or the oldest event acts on the state that has taken it, and every event keeps the invariant. -/
theorem stepKeepsInvariant : Obligations.StepKeepsInvariant := by
  intro s t hs h
  rcases step_next h with ⟨_, rfl⟩ | ⟨a, rest, _, _, h⟩
  · exact hs
  · exact (hs.hostSide rest none (s.draws + 1)).performEvent h

end Sys2Proof.Proofs

namespace Sys2Proof.Machine

variable {s t : State} {i : Instr} {rest : List HostEvent}

/-! The STATUS view (R38). -/

theorem Phase.code_lt (p : Phase) : p.code < 2 ^ 3 := by cases p <;> decide

theorem Variant.code_lt (v : Variant) : v.code < 2 := by cases v <;> decide

theorem ErrKind.code_lt (e : ErrKind) : e.code < 2 ^ 3 := by cases e <;> decide

/-- A field above the `n` bits of a number adds to it. -/
theorem lor_shiftLeft {lo : Nat} (n hi : Nat) (h : lo < 2 ^ n) : lo ||| hi <<< n = lo + 2 ^ n * hi := by
  rw [Nat.lor_comm, ← Nat.shiftLeft_add_eq_or_of_lt h, Nat.shiftLeft_eq, Nat.mul_comm, Nat.add_comm]

/-- The fields of STATUS lie in bits of their own, so their disjunction is their sum (R38). -/
theorem toNat_status (s : State) : s.status.toNat = Claims.statusNumber s := by
  have hp := s.phase.code_lt
  have hv := s.variant.code_lt
  have he := s.err.code_lt
  have hd := s.dv.toNat_lt
  have hb := s.busy.toNat_lt
  have hsum : s.phase.code ||| s.dv.toNat <<< 3 ||| s.variant.code <<< 4 ||| s.busy.toNat <<< 7 ||| s.err.code <<< 8 =
      Claims.statusNumber s := by
    rw [lor_shiftLeft 3 _ hp, lor_shiftLeft 4 _ (by omega), lor_shiftLeft 7 _ (by omega), lor_shiftLeft 8 _ (by omega)]
    rfl
  rw [State.status, hsum, BitVec.toNat_ofNat, Claims.statusNumber]
  exact Nat.mod_eq_of_lt (by omega)

/-! What an access to a register does (R48, R50). -/

/-- The slot at the offset of a register holds that register (R50). -/
theorem regAtSlot_offset (r : Reg) : regAtSlot (r.offset / 8) = some r := by
  cases r with
  | cmd | status | msglen | padlen | nblk | blkidx | t | dlen => rfl
  | h j | wv j | w j => revert j; decide

/-- The offset of a register is aligned (R50). -/
theorem regAligned_offset (r : Reg) : regAligned r.offset 8 = true := by
  cases r with
  | cmd | status | msglen | padlen | nblk | blkidx | t | dlen => rfl
  | h j | wv j | w j => simp [regAligned, Reg.offset]

/-- An 8-byte write at the offset of a register writes that register. -/
theorem writeRegister_offset (r : Reg) (x : Word) : writeRegister r.offset 8 x s = storeRegister r x s := by
  simp [writeRegister, regAligned_offset, regAtSlot_offset]

/-- A step whose event is the write of a register (R48, R69). -/
theorem step_regWrite (r : Reg) (x : Word) (hb : s.busy = false) (h : s.host = .regWrite r.offset 8 x :: rest) :
    step s = storeRegister r x (s.taking rest) := by
  rw [step_of_cons h, hostEvent_of_not_busy (s := s.taking rest) hb]
  exact writeRegister_offset r x

/-- A step whose event is reset, which may act while BUSY = 1 too (R183, R194). -/
theorem step_reset (h : s.host = .reset :: rest) : step s = .next (resetCore (s.taking rest)) := by
  rw [step_of_cons h, hostEvent]
  simp [HostEvent.allowedWhileBusy, performEvent]

/-- ROUND in COMPRESS past the last round is legal by the table, and has no word of the schedule to use. -/
theorem execRound_past_last (hp : s.phase = .compress) (ht : s.cfg.rounds < s.t.toNat) :
    execRound s = .fault (.roundIndexOutOfRange .round) := by
  have hl : s.legal .round = true := by simp [State.legal, hp, ht.ne']
  rw [execRound, gated_of_legal (by simp [hp]) hl, roundBody, if_pos ht]

end Sys2Proof.Machine

namespace Sys2Proof.Proofs

open Sys2Proof.Machine Sys2Proof.Claims

/-- Settles O16: the value of STATUS is the sum of R38, and the fields are its digits. -/
theorem statusLayout : Obligations.StatusLayout := by
  refine ⟨fun s => ?_, fun s rest x hb h => step_regWrite .status x hb h, by decide, by decide, by decide⟩
  have hp := s.phase.code_lt
  have hv := s.variant.code_lt
  have he := s.err.code_lt
  have hd := s.dv.toNat_lt
  have hb := s.busy.toNat_lt
  rw [toNat_status, statusNumber]
  omega

/-- Settles O17: the step answers the reset core, whose fields are read off; an unlisted cell of an empty memory holds its background. -/
theorem resetSetsEveryRegister : Obligations.ResetSetsEveryRegister := by
  intro s rest h
  refine ⟨_, step_reset h, ?_⟩
  simp [Memory.read, Memory.lookup, ByteSpace.background]

/-- Settles O29: the table of R152 lets ROUND through, and its body stops by name. -/
theorem roundPastLastRoundFaults : Obligations.RoundPastLastRoundFaults :=
  fun _ => execRound_past_last

/-- Settles O41: each effect of a command, field by field. -/
theorem onlyNamedCommandsWrite : Obligations.OnlyNamedCommandsWrite := by
  intro i s t hi h
  cases exec_effect hi h with
  | kept | raised | init | pad | parse | parseNoBlock | expand | round | format => simp
  | fold hp ht hb =>
    obtain ⟨_, rfl⟩ | ⟨_, rfl⟩ := foldBody_next hb <;> simp
  | compress hp hb =>
    obtain ⟨_, rfl⟩ | ⟨_, rfl⟩ := foldBody_next hb <;> simp

end Sys2Proof.Proofs

namespace Sys2Proof.Machine

variable {s t : State} {a : HostEvent} {rest : List HostEvent}

/-! The accesses to the REG space (R48, R50 to R55). -/

/-- With BUSY = 0 the oldest pending event does what its rule says, on the state that has taken it (R69). -/
theorem step_of_event (hb : s.busy = false) (h : s.host = a :: rest) : step s = performEvent a (s.taking rest) :=
  (step_of_cons h).trans (hostEvent_of_not_busy hb)

theorem regAligned_iff {offset width : Nat} : regAligned offset width = true ↔ width = 8 ∧ offset % 8 = 0 :=
  decide_eq_true_iff

/-- No slot from 0x380 on holds a register (R50). -/
theorem regAtSlot_of_le {k : Nat} (h : 112 ≤ k) : regAtSlot k = none := by
  unfold regAtSlot
  repeat rw [if_neg (by omega)]

/-- The slots that hold no register (R50, R51): those of 0x0C0..0x0F8 and everything from 0x380 on. -/
theorem regAtSlot_eq_none_iff (k : Nat) : regAtSlot k = none ↔ (24 ≤ k ∧ k < 32) ∨ 112 ≤ k := by
  have hlow : ∀ k < 112, regAtSlot k = none ↔ 24 ≤ k ∧ k < 32 := by decide
  by_cases h : k < 112
  · rw [hlow k h]
    omega
  · simp [regAtSlot_of_le (Nat.le_of_not_lt h), Nat.le_of_not_lt h]

/-- The register of a slot lies at the offset of the slot (R50). -/
theorem offset_of_regAtSlot {k : Nat} {r : Reg} (h : regAtSlot k = some r) : r.offset = 8 * k := by
  have hlow : ∀ k < 112, ∀ r ∈ regAtSlot k, r.offset = 8 * k := by decide
  refine hlow k ?_ r h
  by_contra hk
  cases (regAtSlot_of_le (Nat.le_of_not_lt hk)).symm.trans h

/-- An aligned offset that a slot maps is the offset of its register. -/
theorem eq_offset_of_regAtSlot {offset : Nat} {r : Reg} (ha : offset % 8 = 0) (h : regAtSlot (offset / 8) = some r) :
    offset = r.offset := by
  rw [offset_of_regAtSlot h]
  omega

/-- An access to REG of a wrong width or alignment is a model fault (R48). -/
theorem performEvent_of_not_aligned {offset width : Nat}
    (ha : a = .regRead offset width ∨ ∃ x, a = .regWrite offset width x) (h : regAligned offset width = false) :
    performEvent a s = .fault (.regWidthOrAlignment a) := by
  rcases ha with rfl | ⟨x, rfl⟩
  · simp [performEvent, readRegister, h]
  · simp [performEvent, writeRegister, h]

/-- An access to an unmapped slot of REG is a model fault (R51). -/
theorem performEvent_of_unmapped {offset width : Nat}
    (ha : a = .regRead offset width ∨ ∃ x, a = .regWrite offset width x) (h : regAligned offset width = true)
    (hu : regAtSlot (offset / 8) = none) : performEvent a s = .fault (.regUnmapped a) := by
  rcases ha with rfl | ⟨x, rfl⟩
  · simp [performEvent, readRegister, h, hu]
  · simp [performEvent, writeRegister, h, hu]

/-- A read of REG that answers a next state replies to the host (R55). -/
theorem readRegister_next {offset width : Nat} (h : readRegister offset width s = .next t) :
    ∃ x, t = { s with rdata := some x } := by
  unfold readRegister at h
  split at h
  · split at h <;> cases h
    exact ⟨_, rfl⟩
  · cases h

/-- A write of REG that answers a next state is an 8-byte write at the offset of a register (R48, R51). -/
theorem writeRegister_next {offset width : Nat} {x : Word} (h : writeRegister offset width x s = .next t) :
    ∃ r : Reg, offset = r.offset ∧ width = 8 ∧ storeRegister r x s = .next t := by
  unfold writeRegister at h
  split at h
  · rename_i ha
    obtain ⟨hw, ho⟩ := regAligned_iff.1 ha
    split at h
    · rename_i r hr
      exact ⟨r, eq_offset_of_regAtSlot ho hr, hw, h⟩
    · cases h
  · cases h

/-- A write to a register other than CMD and MSGLEN is ignored (R52). -/
theorem storeRegister_readOnly {r : Reg} (x : Word) (hc : r ≠ .cmd) (hm : r ≠ .msglen) :
    storeRegister r x s = .next s := by
  cases r with
  | cmd => exact absurd rfl hc
  | msglen => exact absurd rfl hm
  | status | padlen | nblk | blkidx | t | dlen | h _ | wv _ | w _ => rfl

/-- The value that a read returns is the one of the register map (R50, R55). -/
theorem readReg_eq_regValue (s : State) (r : Reg) : s.readReg r = Claims.regValue s r := by
  cases r with
  | status => rw [State.readReg, Claims.regValue, ← toNat_status, BitVec.ofNat_toNat, BitVec.setWidth_eq]
  | t | dlen => exact (BitVec.ofNat_toNat ..).symm
  | cmd | msglen | padlen | nblk | blkidx | h _ | wv _ | w _ => rfl

/-- An 8-byte read at the offset of a register replies with that register. -/
theorem readRegister_offset (r : Reg) : readRegister r.offset 8 s = reply (s.readReg r) s := by
  simp [readRegister, regAligned_offset, regAtSlot_offset]

/-- A step whose event is the read of a register (R55, R69). -/
theorem step_regRead (r : Reg) (hb : s.busy = false) (h : s.host = .regRead r.offset 8 :: rest) :
    step s = reply ((s.taking rest).readReg r) (s.taking rest) :=
  (step_of_event hb h).trans (readRegister_offset r)

/-! Command words (R53, R151). -/

/-- The command word of a CMD write is `x[7:0]` (R53). -/
theorem setWidth_eq_ofNat_mod (x : Word) : BitVec.setWidth 8 x = BitVec.ofNat 8 (x.toNat % 256) := by
  apply BitVec.eq_of_toNat_eq
  simp

/-- A word that decodes performs its command. -/
theorem issueCommand_of_ok {c : Byte} {i : Instr} (h : decode c = .ok i) : issueCommand c s = exec i s := by
  simp [issueCommand, h]

/-- An ILLEGAL word is dropped in ERROR (R170). -/
theorem issueCommand_illegal_of_error {c : Byte} {e : IllegalWord} (h : decode c = .error e) (hp : s.phase = .error) :
    issueCommand c s = .next s := by
  simp [issueCommand, illegalWord, h, hp]

/-- An ILLEGAL word raises IllegalCommand in every other phase (R83). -/
theorem issueCommand_illegal {c : Byte} {e : IllegalWord} (h : decode c = .error e) (hp : s.phase ≠ .error) :
    issueCommand c s = .next (raiseError .illegalCommand s) := by
  simp [issueCommand, illegalWord, h, hp]

/-! The accesses to the byte spaces (R49, R56 to R58). -/

/-- A byte access of another width than 1 is a model fault (R49). -/
theorem performEvent_of_width {space : ByteSpace} {addr width : Nat}
    (ha : a = .byteRead space addr width ∨ ∃ b, a = .byteWrite space addr width b) (h : width ≠ 1) :
    performEvent a s = .fault (.byteWidth a) := by
  rcases ha with rfl | ⟨b, rfl⟩ <;> simp [performEvent, byteChecked, h]

/-- A byte access at an address outside its space is a model fault (R49). -/
theorem performEvent_of_outside {space : ByteSpace} {addr : Nat}
    (ha : a = .byteRead space addr 1 ∨ ∃ b, a = .byteWrite space addr 1 b) (h : s.spaceSize space ≤ addr) :
    performEvent a s = .fault (.byteOutside a) := by
  rcases ha with rfl | ⟨b, rfl⟩ <;> simp [performEvent, byteChecked, h]

/-- A byte access of width 1 inside its space passes the checks (R49). -/
theorem byteChecked_inside {space : ByteSpace} {addr : Nat} {body : State → Res} (h : addr < s.spaceSize space) :
    byteChecked a space addr 1 body s = body s := by
  simp [byteChecked, h]

/-- A byte access that answers a next state is 1 byte wide and passes to its body (R49). -/
theorem byteChecked_next {space : ByteSpace} {addr width : Nat} {body : State → Res}
    (h : byteChecked a space addr width body s = .next t) : width = 1 ∧ body s = .next t := by
  unfold byteChecked at h
  split at h
  · cases h
  · rename_i hw
    split at h
    · cases h
    · exact ⟨by omega, h⟩

/-- A step whose event is the read of a byte inside a space. -/
theorem step_byteRead {space : ByteSpace} {addr : Nat} (hb : s.busy = false)
    (h : s.host = .byteRead space addr 1 :: rest) (hin : addr < (s.taking rest).spaceSize space) :
    step s = loadByte space addr 1 (s.taking rest) :=
  (step_of_event hb h).trans (byteChecked_inside hin)

/-- A step whose event is the write of a byte inside a space. -/
theorem step_byteWrite {space : ByteSpace} {addr : Nat} {b : Byte} (hb : s.busy = false)
    (h : s.host = .byteWrite space addr 1 b :: rest) (hin : addr < (s.taking rest).spaceSize space) :
    step s = storeByte space addr b (s.taking rest) :=
  (step_of_event hb h).trans (byteChecked_inside hin)

/-- A read of a written MSG cell replies with its byte (R56). -/
theorem loadByte_msg_of_written {addr width : Nat} {b : Byte}
    (h : Memory.read ByteSpace.msg.background s.msg addr = some b) :
    loadByte .msg addr width s = reply (BitVec.setWidth 64 b) s := by
  simp [loadByte, h]

/-- A read of an unwritten MSG cell is a model fault (R56). -/
theorem loadByte_msg_of_unwritten {addr width : Nat} (h : Memory.read ByteSpace.msg.background s.msg addr = none) :
    loadByte .msg addr width s = .fault (.unwrittenRead (.byteRead .msg addr width)) := by
  simp [loadByte, h]

/-- A read of a PADBUF cell replies with the byte that the cell gives (R57). -/
theorem loadByte_padbuf {addr width : Nat} {b : Byte} (h : s.padCell addr = b) :
    loadByte .padbuf addr width s = reply (BitVec.setWidth 64 b) s := by
  simp [loadByte, h]

/-- A read of a DIGEST cell replies with its byte (R58). -/
theorem loadByte_digest {addr width : Nat} {b : Byte}
    (h : Memory.read ByteSpace.digest.background s.digest addr = some b) :
    loadByte .digest addr width s = reply (BitVec.setWidth 64 b) s := by
  simp [loadByte, h]

/-- Below PADLEN a PADBUF cell gives the byte stored in it (R57). -/
theorem padCell_of_stored {addr : Nat} {b : Byte} (h : addr < s.padlen.toNat)
    (hb : Memory.read ByteSpace.padbuf.background s.padbuf addr = some b) : s.padCell addr = b := by
  simp [State.padCell, h, hb]

/-- From PADLEN on a PADBUF cell gives the free draw of the access (R57, assumption 3). -/
theorem padCell_of_padlen_le {addr : Nat} (h : s.padlen.toNat ≤ addr) :
    s.padCell addr = Config.padDraw s.draws addr :=
  if_neg (by omega)

/-- A read of a byte space that answers a next state replies to the host. -/
theorem loadByte_next {space : ByteSpace} {addr width : Nat} (h : loadByte space addr width s = .next t) :
    ∃ x, t = { s with rdata := some x } := by
  cases space with
  | msg =>
    simp only [loadByte] at h
    split at h <;> cases h
    exact ⟨_, rfl⟩
  | padbuf | digest =>
    cases h
    exact ⟨_, rfl⟩

/-- A write of a byte space is ignored, or sets one MSG cell (R52, R56). -/
theorem storeByte_next {space : ByteSpace} {addr : Nat} {b : Byte} (h : storeByte space addr b s = .next t) :
    t = s ∨ space = .msg ∧ t = { s with msg := Memory.write ByteSpace.msg.background s.msg addr b } := by
  cases space with
  | msg =>
    cases h
    exact .inr ⟨rfl, rfl⟩
  | padbuf | digest =>
    cases h
    exact .inl rfl

/-- What an event that is neither reset nor a CMD write can do: reply, nothing, store MSGLEN, or store one MSG byte (R71).
`performEvent_next` of the model's laws does not say which event makes which change. -/
theorem performEvent_next_of_not_command (hr : a ≠ .reset) (hc : ∀ x, a ≠ .regWrite 0 8 x)
    (h : performEvent a s = .next t) :
    (∃ x, t = { s with rdata := some x }) ∨
    t = s ∨
    (∃ x, a = .regWrite 0x010 8 x ∧ t = { s with msglen := x }) ∨
    (∃ addr b, a = .byteWrite .msg addr 1 b ∧
      t = { s with msg := Memory.write ByteSpace.msg.background s.msg addr b }) := by
  cases a with
  | regRead offset width => exact .inl (readRegister_next h)
  | regWrite offset width x =>
    obtain ⟨r, rfl, rfl, hstore⟩ := writeRegister_next h
    by_cases hm : r = .msglen
    · subst hm
      cases hstore
      exact .inr (.inr (.inl ⟨x, rfl, rfl⟩))
    · have hcmd : r ≠ .cmd := by
        rintro rfl
        exact hc x rfl
      cases (storeRegister_readOnly x hcmd hm).symm.trans hstore
      exact .inr (.inl rfl)
  | byteRead space addr width => exact .inl (loadByte_next (byteChecked_next h).2)
  | byteWrite space addr width b =>
    obtain ⟨rfl, hstore⟩ := byteChecked_next h
    rcases storeByte_next hstore with rfl | ⟨rfl, rfl⟩
    · exact .inr (.inl rfl)
    · exact .inr (.inr (.inr ⟨addr, b, rfl, rfl⟩))
  | reset => exact absurd rfl hr

end Sys2Proof.Machine

namespace Sys2Proof.Machine

open Sys2Proof.Claims

variable {s t : State} {i : Instr}

/-! The message is the host's (R32, R41, R72). -/

/-- No effect of a command writes MSG or MSGLEN. -/
theorem Effect.message (h : Effect i s t) : t.msg = s.msg ∧ t.msglen = s.msglen := by
  cases h with
  | kept | raised | init | pad | parse | parseNoBlock | expand | round | format => simp
  | fold hp ht hb =>
    obtain ⟨_, rfl⟩ | ⟨_, rfl⟩ := foldBody_next hb <;> simp
  | compress hp hb =>
    obtain ⟨_, rfl⟩ | ⟨_, rfl⟩ := foldBody_next hb <;> simp

/-- No command writes MSG or MSGLEN, HASH included. -/
theorem exec_message (h : exec i s = .next t) : t.msg = s.msg ∧ t.msglen = s.msglen := by
  have hrun := exec_effects h
  clear h
  induction hrun with
  | refl => exact ⟨rfl, rfl⟩
  | tail _ h ih =>
    obtain ⟨_, h⟩ := h
    exact ⟨h.message.1.trans ih.1, h.message.2.trans ih.2⟩

variable (m : Memory) (n : BitVec 64)

/-- The legality table does not look at the message (R152). -/
theorem legal_withMessage (s : State) (i : Instr) : (withMessage m n s).legal i = s.legal i := by
  cases i <;> rfl

theorem raiseError_withMessage (e : ErrKind) (s : State) :
    raiseError e (withMessage m n s) = withMessage m n (raiseError e s) := by
  simp only [raiseError, withMessage, State.writeDigest]

theorem beginRun_withMessage (x : Variant) (s : State) :
    beginRun x (withMessage m n s) = withMessage m n (beginRun x s) := by
  simp only [beginRun, withMessage, State.writeDigest]

/-- A checked command does not look at the message if its body does not. -/
theorem gated_withMessage {body : State → Res}
    (hb : body (withMessage m n s) = mapNext (withMessage m n) (body s)) :
    gated i body (withMessage m n s) = mapNext (withMessage m n) (gated i body s) := by
  simp only [gated, apply_ite (mapNext _), legal_withMessage, raiseError_withMessage, hb]
  rfl

theorem initBody_withMessage (v : Nat) (s : State) :
    initBody v (withMessage m n s) = mapNext (withMessage m n) (initBody v s) := by
  unfold initBody
  cases select v with
  | some x => exact congrArg Host.Outcome.next (beginRun_withMessage m n x s)
  | none => exact congrArg Host.Outcome.next (raiseError_withMessage m n _ s)

theorem parseBody_withMessage (s : State) :
    parseBody (withMessage m n s) = mapNext (withMessage m n) (parseBody s) := by
  simp only [parseBody, apply_ite (mapNext _), raiseError_withMessage]
  rfl

theorem roundBody_withMessage (s : State) :
    roundBody (withMessage m n s) = mapNext (withMessage m n) (roundBody s) := by
  simp only [roundBody, apply_ite (mapNext _)]
  rfl

theorem foldBody_withMessage (s : State) :
    foldBody (withMessage m n s) = mapNext (withMessage m n) (foldBody s) := by
  simp only [foldBody, apply_ite (mapNext _)]
  rfl

/-- No command but PAD and HASH looks at the message. -/
theorem exec_withMessage (hp : i ≠ .pad) (hh : ∀ v, i ≠ .hash v) (s : State) :
    exec i (withMessage m n s) = mapNext (withMessage m n) (exec i s) := by
  cases i with
  | nop => rfl
  | init v => exact initBody_withMessage m n v s
  | pad => exact absurd rfl hp
  | parse => exact gated_withMessage m n (parseBody_withMessage m n s)
  | expand => exact gated_withMessage m n rfl
  | round => exact gated_withMessage m n (roundBody_withMessage m n s)
  | fold => exact gated_withMessage m n (foldBody_withMessage m n s)
  | compress => exact gated_withMessage m n (foldBody_withMessage m n (finishRounds s))
  | format => exact gated_withMessage m n rfl
  | hash v => exact absurd rfl (hh v)

end Sys2Proof.Machine

namespace Sys2Proof.Machine

variable {s t : State} {k j : Nat} {cores after : List State}

/-! Several instances (R76, R180). -/

theorem stepInstance_of_none (h : cores[k]? = none) : stepInstance k cores = .next cores := by
  simp [stepInstance, h]

theorem stepInstance_of_some (h : cores[k]? = some s) (hs : step s = .next t) :
    stepInstance k cores = .next (cores.set k t) := by
  simp [stepInstance, h, hs]

/-- How a step of core `k` answers next states: there is no such core, or its state alone takes a step. -/
theorem stepInstance_next (h : stepInstance k cores = .next after) :
    (cores[k]? = none ∧ after = cores) ∨
    ∃ s t, cores[k]? = some s ∧ step s = .next t ∧ after = cores.set k t := by
  unfold stepInstance at h
  split at h
  · rename_i hk
    cases h
    exact .inl ⟨hk, rfl⟩
  · rename_i s hk
    split at h <;> cases h
    rename_i t hs
    exact .inr ⟨s, t, hk, hs, rfl⟩

/-- A step of one core leaves every other as it is. -/
theorem stepInstance_getElem?_ne (h : stepInstance k cores = .next after) (hjk : j ≠ k) :
    after[j]? = cores[j]? := by
  rcases stepInstance_next h with ⟨_, rfl⟩ | ⟨s, t, _, _, rfl⟩
  · rfl
  · exact List.getElem?_set_ne hjk.symm

/-- A step of one core is the same after any change of another. -/
theorem stepInstance_set (h : stepInstance k cores = .next after) (hjk : j ≠ k) (u : State) :
    stepInstance k (cores.set j u) = .next (after.set j u) := by
  have hk : (cores.set j u)[k]? = cores[k]? := List.getElem?_set_ne hjk
  rcases stepInstance_next h with ⟨hn, rfl⟩ | ⟨s, t, hs, hst, rfl⟩
  · exact stepInstance_of_none (hk.trans hn)
  · rw [stepInstance_of_some (hk.trans hs) hst, List.set_comm _ _ hjk]

end Sys2Proof.Machine

namespace Sys2Proof.Proofs

open Sys2Proof.Machine Sys2Proof.Claims

/-- Settles O6: an event that is neither reset nor a CMD write replies, changes nothing, stores MSGLEN, or stores one MSG byte. -/
theorem onlyCommandWritesMoveTheCore : Obligations.OnlyCommandWritesMoveTheCore := by
  intro s t a rest h hr hc hstep
  rcases step_next hstep with ⟨hnil, _⟩ | ⟨a', rest', h', _, hev⟩
  · cases hnil.symm.trans h
  · cases h'.symm.trans h
    rcases performEvent_next_of_not_command hr hc hev with ⟨x, rfl⟩ | rfl | ⟨x, rfl, rfl⟩ | ⟨addr, b, rfl, rfl⟩
    · exact ⟨rfl, .inl rfl, .inl rfl⟩
    · exact ⟨rfl, .inl rfl, .inl rfl⟩
    · exact ⟨rfl, .inr ⟨x, rfl, rfl⟩, .inl rfl⟩
    · exact ⟨rfl, .inl rfl,
        .inr ⟨addr, b, rfl, rfl, Memory.read_write_same .., fun _ hk => Memory.read_write_ne _ _ b hk⟩⟩

/-- Settles O8: the read replies with the register of its offset. -/
theorem registerReadReturnsValue : Obligations.RegisterReadReturnsValue := by
  intro s r rest hb h
  rw [step_regRead r hb h, readReg_eq_regValue]
  rfl

/-- Settles O9: the check of width and alignment comes first, and the two ranges are slots without a register. -/
theorem malformedRegisterAccessFaults : Obligations.MalformedRegisterAccessFaults := by
  intro s a rest offset width hb h ha
  rw [step_of_event hb h]
  refine ⟨fun hbad => performEvent_of_not_aligned ha ?_, fun ⟨hw, ho, hrange⟩ => performEvent_of_unmapped ha ?_ ?_⟩
  · rw [Bool.eq_false_iff, Ne, regAligned_iff]
    omega
  · exact regAligned_iff.2 ⟨hw, ho⟩
  · rw [regAtSlot_eq_none_iff]
    omega

/-- Settles O11: the width is checked first, then the size of the space. -/
theorem malformedByteAccessFaults : Obligations.MalformedByteAccessFaults := by
  intro s a rest space addr width hb h ha
  rw [step_of_event hb h]
  refine ⟨performEvent_of_width ha, ?_⟩
  rintro rfl
  refine ⟨?_, ?_, ?_⟩ <;>
  · rintro rfl hout
    exact performEvent_of_outside ha hout

/-- Settles O12: a write inside MSG sets its cell, and a read looks it up. -/
theorem messageMemoryReadsWhatWasWritten : Obligations.MessageMemoryReadsWhatWasWritten := by
  intro s rest addr hb hin
  refine ⟨fun b h => ⟨_, step_byteWrite hb h hin, rfl, ?_, ?_⟩, fun b h hw => ?_, fun h hu => ?_⟩
  · exact Memory.read_write_same ..
  · exact fun _ ha => Memory.read_write_ne _ _ b ha
  · exact (step_byteRead hb h hin).trans (loadByte_msg_of_written hw)
  · exact (step_byteRead hb h hin).trans (loadByte_msg_of_unwritten hu)

/-- Settles O13: a read of PADBUF replies with the cell below PADLEN and with the free draw from there on. -/
theorem padbufAndDigestAccesses : Obligations.PadbufAndDigestAccesses := by
  intro s rest addr hb
  refine ⟨fun b h hin hlt hcell => ?_, fun h hin hle => ?_, fun b h hin hcell => ?_, ?_⟩
  · exact (step_byteRead hb h hin).trans (loadByte_padbuf (padCell_of_stored hlt hcell))
  · exact (step_byteRead hb h hin).trans (loadByte_padbuf (padCell_of_padlen_le hle))
  · exact (step_byteRead hb h hin).trans (loadByte_digest hcell)
  · rintro b (⟨h, hin⟩ | ⟨h, hin⟩)
    · exact step_byteWrite hb h hin
    · exact step_byteWrite hb h hin

/-- Settles O14: such a write passes the checks and stores nothing. -/
theorem readOnlyWritesAreIgnored : Obligations.ReadOnlyWritesAreIgnored := by
  intro s rest hb
  refine ⟨fun r x hc hm h => ?_, fun _ _ h hin => ?_, fun _ _ h hin => ?_⟩
  · exact (step_regWrite r x hb h).trans (storeRegister_readOnly x hc hm)
  · exact step_byteWrite hb h hin
  · exact step_byteWrite hb h hin

/-- Settles O40: no effect writes the message, and every body but PAD's commutes with a change of it. -/
theorem messageIsReadOnlyByPad : Obligations.MessageIsReadOnlyByPad :=
  ⟨fun _ _ _ => exec_message, fun _ s m n hp hh => exec_withMessage m n hp hh s⟩

/-- Settles O42: a step sets the state of its own core alone, and two sets at different places commute. -/
theorem instancesCommute : Obligations.InstancesCommute := by
  refine ⟨fun k j cores after h hjk => stepInstance_getElem?_ne h hjk, fun k j cores a b hkj hk hj => ?_⟩
  have hjk : j ≠ k := hkj.symm
  have hsame : a[j]? = cores[j]? := stepInstance_getElem?_ne hk hjk
  rcases stepInstance_next hj with ⟨hn, rfl⟩ | ⟨s, t, hs, hst, rfl⟩
  · exact ⟨cores, stepInstance_of_none (hsame.symm.trans hn), hk⟩
  · exact ⟨cores.set j t, stepInstance_of_some (hsame.symm.trans hs) hst, stepInstance_set hk hjk t⟩

/-- Settles O5: a CMD write issues the word `x[7:0]`. -/
theorem stepRunsDecodedCommand : Obligations.StepRunsDecodedCommand := by
  refine ⟨fun _ => step_of_idle, fun s rest x hb h => ?_⟩
  have hstep : step s = issueCommand (BitVec.ofNat 8 (x.toNat % 256)) (acting rest s) :=
    (step_regWrite .cmd x hb h).trans (congrArg (issueCommand · _) (setWidth_eq_ofNat_mod x))
  rw [hstep]
  exact ⟨fun i hd => issueCommand_of_ok hd,
    fun e hd => ⟨issueCommand_illegal_of_error (s := acting rest s) hd, issueCommand_illegal (s := acting rest s) hd⟩⟩

/-- Settles O10: from 0x400 on every slot is one without a register. -/
theorem registerAccessBeyondSpaceFaults : Obligations.RegisterAccessBeyondSpaceFaults := by
  intro s rest offset hb ho hout
  have hslot : regAtSlot (offset / 8) = none := by
    rw [regAtSlot_eq_none_iff]
    omega
  have hal : regAligned offset 8 = true := regAligned_iff.2 ⟨rfl, ho⟩
  exact ⟨fun h => (step_of_event hb h).trans (performEvent_of_unmapped (.inl rfl) hal hslot),
    fun x h => (step_of_event hb h).trans (performEvent_of_unmapped (.inr ⟨x, rfl⟩) hal hslot)⟩

/-- Settles O15: the write of MSGLEN stores its value. -/
theorem msglenWriteStoresValue : Obligations.MsglenWriteStoresValue :=
  fun _ _ x hb h => step_regWrite .msglen x hb h

end Sys2Proof.Proofs

namespace Sys2Proof

variable {c : Byte} {i : Instr} {e : IllegalWord}

/-! The fields of a command word as numbers (R77). -/

theorem toNat_opField (c : Byte) : (opField c).toNat = c.toNat / 16 := by
  have hc : c.toNat < 256 := c.isLt
  rw [opField, BitVec.extractLsb_toNat, Nat.shiftRight_eq_div_pow]
  omega

theorem toNat_rsvField (c : Byte) : (rsvField c).toNat = c.toNat / 4 % 4 := by
  rw [rsvField, BitVec.extractLsb_toNat, Nat.shiftRight_eq_div_pow]

theorem toNat_variantField (c : Byte) : (variantField c).toNat = c.toNat % 4 := by
  rw [variantField, BitVec.extractLsb_toNat, Nat.shiftRight_zero]

theorem lowBits_eq_zero_iff (c : Byte) : c.extractLsb 3 0 = 0#4 ↔ c.toNat % 16 = 0 := by
  rw [← BitVec.toNat_inj, BitVec.extractLsb_toNat, Nat.shiftRight_zero]
  rfl

theorem rsvField_eq_zero_iff (c : Byte) : rsvField c = 0#2 ↔ c.toNat / 4 % 4 = 0 := by
  rw [← BitVec.toNat_inj, toNat_rsvField]
  rfl

/-! The two kinds of rows of the opcode map (R79, R82). -/

theorem decodePlain_of_low_zero (h : c.toNat % 16 = 0) : decodePlain c i = .ok i :=
  if_pos ((lowBits_eq_zero_iff c).2 h)

theorem decodePlain_of_low_ne_zero (h : c.toNat % 16 ≠ 0) : decodePlain c i = .error .lowBits :=
  if_neg (mt (lowBits_eq_zero_iff c).1 h)

theorem decodeVariant_of_rsv_zero {f : Nat → Instr} (h : c.toNat / 4 % 4 = 0) :
    decodeVariant c f = .ok (f (c.toNat % 4)) := by
  rw [decodeVariant, if_pos ((rsvField_eq_zero_iff c).2 h), toNat_variantField]

theorem decodeVariant_of_rsv_ne_zero {f : Nat → Instr} (h : c.toNat / 4 % 4 ≠ 0) :
    decodeVariant c f = .error .reservedBits :=
  if_neg (mt (rsvField_eq_zero_iff c).1 h)

/-- The fields of the word `c` are those of the row of `i` (R77, R79). -/
structure HasFields (c : Byte) (i : Instr) : Prop where
  op : c.toNat / 16 = opNumber i
  rsv : c.toNat / 4 % 4 = 0
  operand : c.toNat % 4 = operandBits i

/-- The three groups of R83, as conditions on the value of the word. -/
def InGroup (n : Nat) : IllegalWord → Prop
  | .reservedOp => 0xA ≤ n / 16
  | .reservedBits => (n / 16 = 0x1 ∨ n / 16 = 0x9) ∧ n / 4 % 4 ≠ 0
  | .lowBits => (n / 16 = 0x0 ∨ (0x2 ≤ n / 16 ∧ n / 16 ≤ 0x8)) ∧ n % 16 ≠ 0

/-- What an answer of the decoder says of the word. -/
def Describes (c : Byte) : Except IllegalWord Instr → Prop
  | .ok i => HasFields c i
  | .error e => InGroup c.toNat e

theorem describes_decodePlain (hop : c.toNat / 16 = opNumber i) (hi : operandBits i = 0)
    (hrow : c.toNat / 16 = 0x0 ∨ (0x2 ≤ c.toNat / 16 ∧ c.toNat / 16 ≤ 0x8)) : Describes c (decodePlain c i) := by
  by_cases h : c.toNat % 16 = 0
  · rw [decodePlain_of_low_zero h]
    exact ⟨hop, by omega, by omega⟩
  · rw [decodePlain_of_low_ne_zero h]
    exact ⟨hrow, h⟩

theorem describes_decodeVariant {f : Nat → Instr} (hop : ∀ v, c.toNat / 16 = opNumber (f v))
    (hf : ∀ v, operandBits (f v) = v) (hrow : c.toNat / 16 = 0x1 ∨ c.toNat / 16 = 0x9) :
    Describes c (decodeVariant c f) := by
  by_cases h : c.toNat / 4 % 4 = 0
  · rw [decodeVariant_of_rsv_zero h]
    exact ⟨hop _, h, (hf _).symm⟩
  · rw [decodeVariant_of_rsv_ne_zero h]
    exact ⟨hrow, h⟩

/-- What the decoder can answer, said once: a command whose fields the word has, or the group that the word is in. -/
theorem describes_decode (c : Byte) : Describes c (decode c) := by
  rw [decode, toNat_opField]
  split
  case h_2 h | h_10 h => exact describes_decodeVariant (fun _ => h) (fun _ => rfl) (by omega)
  case h_11 =>
    simp only [imp_false] at *
    show 0xA ≤ c.toNat / 16
    omega
  all_goals exact describes_decodePlain (by assumption) rfl (by omega)

theorem HasFields.of_decode (h : decode c = .ok i) : HasFields c i := by
  simpa only [h, Describes] using describes_decode c

theorem InGroup.of_decode (h : decode c = .error e) : InGroup c.toNat e := by
  simpa only [h, Describes] using describes_decode c

/-- A word that has the fields of a command decodes to it (R82). -/
theorem HasFields.decode_eq (h : HasFields c i) : decode c = .ok i := by
  obtain ⟨hop, hrsv, hv⟩ := h
  rw [decode, toNat_opField, hop]
  cases i with
  | init v | hash v => exact (decodeVariant_of_rsv_zero hrsv).trans (congrArg _ (congrArg _ hv))
  | nop | pad | parse | expand | round | fold | compress | format =>
    exact decodePlain_of_low_zero (by rw [operandBits] at hv; omega)

theorem opNumber_le (i : Instr) : opNumber i ≤ 9 := by cases i <;> simp [opNumber]

theorem operandBits_eq_zero (h : opNumber i ≠ 0x1) (h' : opNumber i ≠ 0x9) : operandBits i = 0 := by
  cases i with
  | init v => exact absurd rfl h
  | hash v => exact absurd rfl h'
  | nop | pad | parse | expand | round | fold | compress | format => rfl

/-- A word with the fields of a command is in no group of R83. -/
theorem HasFields.not_inGroup (h : HasFields c i) (e : IllegalWord) : ¬ InGroup c.toNat e := by
  obtain ⟨hop, hrsv, hv⟩ := h
  intro hg
  cases e with
  | reservedOp =>
    have hg : 0xA ≤ c.toNat / 16 := hg
    have := opNumber_le i
    omega
  | reservedBits => exact hg.2 hrsv
  | lowBits =>
    obtain ⟨hrow, hlow⟩ := hg
    have := operandBits_eq_zero (i := i) (by omega) (by omega)
    omega

/-- The groups of R83 exclude each other. -/
theorem InGroup.unique {n : Nat} {e e' : IllegalWord} (h : InGroup n e) (h' : InGroup n e') : e = e' := by
  cases e <;> cases e' <;> simp only [InGroup, reduceCtorEq] at h h' ⊢ <;> omega

/-- The decoder rejects a word exactly with the group that the word is in (R82, R83). -/
theorem decode_eq_error_iff : decode c = .error e ↔ InGroup c.toNat e := by
  refine ⟨InGroup.of_decode, fun hg => ?_⟩
  cases h : decode c with
  | ok i => exact absurd hg ((HasFields.of_decode h).not_inGroup e)
  | error e' => rw [(InGroup.of_decode h).unique hg]

/-! The encoder (R79). -/

theorem wellFormed_of_operandBits_lt (h : operandBits i < 4) : i.wellFormed = true := by
  cases i with
  | init v | hash v => exact decide_eq_true h
  | nop | pad | parse | expand | round | fold | compress | format => rfl

/-- The laws of the opcode map, one per command, as one statement (R77, R79). -/
theorem encodedFields : ∀ i : Instr, Laws.EncodedFields.Statement i
  | .nop => Laws.EncodedFields.nop
  | .init v => Laws.EncodedFields.init v
  | .pad => Laws.EncodedFields.pad
  | .parse => Laws.EncodedFields.parse
  | .expand => Laws.EncodedFields.expand
  | .round => Laws.EncodedFields.round
  | .fold => Laws.EncodedFields.fold
  | .compress => Laws.EncodedFields.compress
  | .format => Laws.EncodedFields.format
  | .hash v => Laws.EncodedFields.hash v

theorem hasFields_encode (h : i.wellFormed = true) : HasFields (encode i) i := by
  obtain ⟨hop, hrsv, hv⟩ := encodedFields i h
  exact ⟨(toNat_opField _).symm.trans hop, (rsvField_eq_zero_iff _).1 hrsv, (toNat_variantField _).symm.trans hv⟩

/-- The fields of a command leave no bit of the word free (R77). -/
theorem HasFields.encode_eq (h : HasFields c i) : encode i = c := by
  obtain ⟨hop, hrsv, hv⟩ := h
  apply BitVec.eq_of_toNat_eq
  rw [encode, BitVec.toNat_ofNat]
  omega

theorem HasFields.wellFormed (h : HasFields c i) : i.wellFormed = true :=
  wellFormed_of_operandBits_lt (h.operand ▸ Nat.mod_lt _ (by decide))

theorem decode_encode (h : i.wellFormed = true) : decode (encode i) = .ok i := (hasFields_encode h).decode_eq

/-- The decoder and the encoder as one relation between words and commands (R77, R79, R82). -/
theorem decode_eq_ok_iff : decode c = .ok i ↔ i.wellFormed = true ∧ encode i = c := by
  refine ⟨fun h => ⟨(HasFields.of_decode h).wellFormed, (HasFields.of_decode h).encode_eq⟩, ?_⟩
  rintro ⟨h, rfl⟩
  exact decode_encode h

theorem decode_of_toNat_eq (h : i.wellFormed = true) (hc : c.toNat = (encode i).toNat) : decode c = .ok i :=
  BitVec.eq_of_toNat_eq hc ▸ decode_encode h

/-- The well-formed commands, in the order of their words (R79). -/
def legalCommands : List Instr :=
  [.nop, .init 0, .init 1, .init 2, .init 3, .pad, .parse, .expand, .round, .fold, .compress, .format,
    .hash 0, .hash 1, .hash 2, .hash 3]

theorem mem_legalCommands_iff (i : Instr) : i ∈ legalCommands ↔ i.wellFormed = true := by
  cases i with
  | init v | hash v =>
    simp only [legalCommands, Instr.wellFormed, List.mem_cons, Instr.init.injEq, Instr.hash.injEq, List.not_mem_nil,
      reduceCtorEq, or_self, or_false, false_or, decide_eq_true_eq]
    omega
  | nop | pad | parse | expand | round | fold | compress | format => decide

/-- The words of the well-formed commands are the 16 legal words of R82. -/
theorem words_of_legalCommands : legalCommands.map (fun i => (encode i).toNat) =
    [0x00, 0x10, 0x11, 0x12, 0x13, 0x20, 0x30, 0x40, 0x50, 0x60, 0x70, 0x80, 0x90, 0x91, 0x92, 0x93] := by decide

theorem exists_decode_ok_iff : (∃ i, decode c = .ok i) ↔ c.toNat ∈ legalCommands.map fun i => (encode i).toNat := by
  simp only [decode_eq_ok_iff, List.mem_map, mem_legalCommands_iff, BitVec.toNat_inj]

end Sys2Proof

namespace Sys2Proof.Machine

/-! Big-endian integers (R87). -/

theorem beNat_append_singleton (s : List Byte) (b : Byte) : beNat (s ++ [b]) = 256 * beNat s + b.toNat := by
  simp [beNat, List.foldl_append]

/-- The last of n + 1 bytes is the low byte; the others encode the rest. -/
theorem toBE_succ (n x : Nat) : toBE (n + 1) x = toBE n (x / 256) ++ [BitVec.ofNat 8 x] := by
  have hbyte : ∀ k ∈ List.range n, BitVec.ofNat 8 (x / 2 ^ (8 * (n + 1 - 1 - k))) =
      BitVec.ofNat 8 (x / 256 / 2 ^ (8 * (n - 1 - k))) := fun k hk => by
    have hexp : 8 * (n + 1 - 1 - k) = 8 + 8 * (n - 1 - k) := by
      have := List.mem_range.1 hk
      omega
    rw [hexp, pow_add, ← Nat.div_div_eq_div_mul]
    rfl
  rw [toBE, List.range_succ, List.map_append, List.map_congr_left hbyte, toBE]
  simp

theorem beNat_toBE (n : Nat) : ∀ x, x < 2 ^ (8 * n) → beNat (toBE n x) = x := by
  induction n with
  | zero =>
    intro x hx
    obtain rfl : x = 0 := by simpa using hx
    rfl
  | succ n ih =>
    intro x hx
    have hhigh : x / 256 < 2 ^ (8 * n) := Nat.div_lt_of_lt_mul (by rw [mul_add, pow_add] at hx; omega)
    rw [toBE_succ, beNat_append_singleton, ih _ hhigh, BitVec.toNat_ofNat]
    omega

theorem toBE_beNat (s : List Byte) : toBE s.length (beNat s) = s := by
  induction s using List.reverseRecOn with
  | nil => rfl
  | append_singleton s b ih =>
    have hb : b.toNat < 256 := b.isLt
    have hhigh : (256 * beNat s + b.toNat) / 256 = beNat s := by omega
    have hlow : BitVec.ofNat 8 (256 * beNat s + b.toNat) = b := BitVec.eq_of_toNat_eq (by
      rw [BitVec.toNat_ofNat]
      omega)
    rw [List.length_append, List.length_singleton, beNat_append_singleton, toBE_succ, hhigh, hlow, ih]

/-- The sum of R87: byte k of N weighs 2^(8(N−1−k)). -/
def weightedSum (s : List Byte) : Nat :=
  ((List.range s.length).map fun k => (s.getD k 0).toNat * 2 ^ (8 * (s.length - 1 - k))).sum

theorem weightedSum_append_singleton (s : List Byte) (b : Byte) :
    weightedSum (s ++ [b]) = 256 * weightedSum s + b.toNat := by
  have hbyte : ∀ k ∈ List.range s.length,
      ((s ++ [b]).getD k 0).toNat * 2 ^ (8 * (s.length + 1 - 1 - k)) =
        256 * ((s.getD k 0).toNat * 2 ^ (8 * (s.length - 1 - k))) := fun k hk => by
    have hk : k < s.length := List.mem_range.1 hk
    have hexp : 8 * (s.length + 1 - 1 - k) = 8 + 8 * (s.length - 1 - k) := by omega
    rw [hexp, pow_add, List.getD_append _ _ _ _ hk]
    ring
  rw [weightedSum, List.length_append, List.length_singleton, List.range_succ, List.map_append, List.sum_append,
    List.map_congr_left hbyte, List.sum_map_mul_left, weightedSum]
  simp

theorem beNat_eq_weightedSum (s : List Byte) : beNat s = weightedSum s := by
  induction s using List.reverseRecOn with
  | nil => rfl
  | append_singleton s b ih => rw [beNat_append_singleton, weightedSum_append_singleton, ih]

end Sys2Proof.Machine

namespace Sys2Proof.Proofs

open Sys2Proof.Machine

/-- Settles O1: a command and its word determine each other. -/
theorem decodeEncodeRoundTrip : Obligations.DecodeEncodeRoundTrip :=
  ⟨fun _ => decode_encode, fun _ _ => decode_eq_ok_iff.1⟩

/-- Settles O2: the words with the fields of a command decode to it, and they are the words of the well-formed commands. -/
theorem decoderFollowsFields : Obligations.DecoderFollowsFields := by
  refine ⟨fun c => ⟨fun ⟨hop, hrsv⟩ => HasFields.decode_eq ⟨hop, hrsv, rfl⟩,
    fun ⟨hop, hrsv⟩ => HasFields.decode_eq ⟨hop, hrsv, rfl⟩, ?_⟩, fun c => ?_⟩
  · have hword (i : Instr) (h : i.wellFormed = true) : c.toNat = (encode i).toNat → decode c = .ok i :=
      decode_of_toNat_eq h
    exact ⟨hword .nop rfl, hword .pad rfl, hword .parse rfl, hword .expand rfl, hword .round rfl, hword .fold rfl,
      hword .compress rfl, hword .format rfl⟩
  · rw [exists_decode_ok_iff, words_of_legalCommands]

/-- Settles O3: each of the ten words is the word of its command. -/
theorem spelledOutWordsDecode : Obligations.SpelledOutWordsDecode :=
  have hword (i : Instr) (h : i.wellFormed = true) : decode (encode i) = .ok i := decode_encode h
  ⟨hword .nop rfl, hword (.init 1) rfl, hword .pad rfl, hword .parse rfl, hword .expand rfl, hword .round rfl,
    hword .fold rfl, hword .compress rfl, hword .format rfl, hword (.hash 3) rfl⟩

/-- Settles O4: the groups of R83, and what an ILLEGAL word does. -/
theorem illegalWordsRaiseOrDrop : Obligations.IllegalWordsRaiseOrDrop := by
  refine ⟨fun _ => decode_eq_error_iff, fun _ => decode_eq_error_iff, fun _ => decode_eq_error_iff, ?_, ?_, ?_,
    fun _ _ _ h => ⟨issueCommand_illegal_of_error h, issueCommand_illegal h⟩⟩
  · rfl
  · rfl
  · rfl

/-- Settles O56: encoding and decoding by induction on the bytes from the last one, the low one. -/
theorem bigEndianRoundTrip : Obligations.BigEndianRoundTrip :=
  ⟨fun n x hx => ⟨length_toBE n x, beNat_toBE n x hx⟩, toBE_beNat, beNat_eq_weightedSum⟩

end Sys2Proof.Proofs

namespace Sys2Proof.Machine

open Sys2Proof.Claims

/-! The selection of a record (R90, R103). -/

/-- Which codes select no variant (R103). -/
theorem select_eq_none_iff (v : Nat) : select v = none ↔ 2 ≤ v := by
  rw [Option.eq_none_iff_forall_ne_some]
  refine ⟨fun h => ?_, fun hv x hx => ?_⟩
  · have h0 : v ≠ 0 := mt (select_eq_some_iff v .narrow).2 (h .narrow)
    have h1 : v ≠ 1 := mt (select_eq_some_iff v .wide).2 (h .wide)
    omega
  · have hcode : v = x.code := (select_eq_some_iff v x).1 hx
    have := x.code_lt
    omega

/-- The name of a variant in the source (R90). -/
def Variant.name : Variant → String
  | .narrow => "SHA-256"
  | .wide => "SHA-512"

theorem selectName_name (x : Variant) : selectName x.name = some x := by
  cases x <;> rfl

theorem eq_name_of_selectName {name : String} {x : Variant} (h : selectName name = some x) : name = x.name := by
  unfold selectName at h
  split at h
  · rename_i hname
    cases h
    exact hname
  · split at h
    · rename_i hname
      cases h
      exact hname
    · cases h

/-- Which names select a variant (R90). -/
theorem selectName_eq_some_iff (name : String) (x : Variant) : selectName name = some x ↔ name = x.name :=
  ⟨eq_name_of_selectName, fun h => h ▸ selectName_name x⟩

/-! The invariants of a record (R93 to R95). -/

theorem roundConstants_lt (v : Variant) (c : Constants) {x : Word} (hx : x ∈ (v.cfg c).roundConstants) :
    x.toNat < 2 ^ (v.cfg c).wordBits := by
  cases v with
  | narrow =>
    obtain ⟨k, -, rfl⟩ := List.mem_map.1 hx
    rw [toNat_storeNarrow]
    exact k.isLt
  | wide => exact x.isLt

theorem mem_initialState_lt (v : Variant) (c : Constants) {x : Word} (hx : x ∈ (v.cfg c).initialState.toList) :
    x.toNat < 2 ^ (v.cfg c).wordBits := by
  obtain ⟨j, hj, rfl⟩ := Vector.getElem_of_mem (Vector.mem_toList_iff.1 hx)
  exact initialState_lt v c ⟨j, hj⟩

/-- The rotation and shift amounts of a record (R93, R94). -/
def amounts (cfg : VariantConfig) : List Nat :=
  [cfg.sched0.a, cfg.sched0.b, cfg.sched0.c, cfg.sched1.a, cfg.sched1.b, cfg.sched1.c,
    cfg.comp0.a, cfg.comp0.b, cfg.comp0.c, cfg.comp1.a, cfg.comp1.b, cfg.comp1.c]

theorem amounts_cfgNarrow (c : Constants) : amounts (cfgNarrow c) = [7, 18, 3, 17, 19, 10, 6, 11, 25, 2, 13, 22] := rfl

theorem amounts_cfgWide (c : Constants) : amounts (cfgWide c) = [1, 8, 7, 19, 61, 6, 14, 18, 41, 28, 34, 39] := rfl

theorem amounts_in_word (v : Variant) (c : Constants) :
    ∀ n ∈ amounts (v.cfg c), 1 ≤ n ∧ n ≤ (v.cfg c).wordBits - 1 := by
  cases v with
  | narrow =>
    rw [cfg_of_narrow, amounts_cfgNarrow, cfgNarrow_wordBits]
    decide
  | wide =>
    rw [cfg_of_wide, amounts_cfgWide, cfgWide_wordBits]
    decide

/-! The default constants (R98 to R102). -/

/-- The formula of R98 as exact integer arithmetic, ⌊ⁿ√p × 2^w⌋ mod 2^w. -/
def primeRootWord (n w p : Nat) : Nat := Nat.nthRoot n (p * 2 ^ (n * w)) % 2 ^ w

/-- The word of R98 is the low part of an integer root, which its two bounds pin. -/
theorem primeRootWord_spec {n : Nat} (hn : n ≠ 0) (w p : Nat) :
    ∃ r, r ^ n ≤ p * 2 ^ (n * w) ∧ p * 2 ^ (n * w) < (r + 1) ^ n ∧ primeRootWord n w p = r % 2 ^ w :=
  ⟨_, Nat.pow_nthRoot_le (.inl hn), Nat.lt_pow_nthRoot_add_one hn _, rfl⟩

/-- The trial divisions are evaluated once, here, and not again at each word of a table. -/
theorem primes_eq : primes =
    [2, 3, 5, 7, 11, 13, 17, 19, 23, 29, 31, 37, 41, 43, 47, 53, 59, 61, 67, 71, 73, 79, 83, 89, 97, 101, 103, 107, 109, 113,
      127, 131, 137, 139, 149, 151, 157, 163, 167, 173, 179, 181, 191, 193, 197, 199, 211, 223, 227, 229, 233, 239, 241, 251,
      257, 263, 269, 271, 277, 281, 283, 293, 307, 311, 313, 317, 331, 337, 347, 349, 353, 359, 367, 373, 379, 383, 389, 397,
      401, 409] := by decide +kernel

/-- The tables of R99 and R100 hold the words of the cube roots. -/
theorem roundConstant_default (v : Variant) : ∀ i, i < (v.cfg defaultConstants).rounds →
    ((v.cfg defaultConstants).roundConstant i).toNat =
      primeRootWord 3 (v.cfg defaultConstants).wordBits (primes.getD i 0) := by
  rw [primes_eq]
  cases v with
  | narrow => decide +kernel
  | wide => decide +kernel

/-- The tables of R101 and R102 hold the words of the square roots. -/
theorem initialState_default (v : Variant) : ∀ j : Fin 8, (v.cfg defaultConstants).initialState[j].toNat =
    primeRootWord 2 (v.cfg defaultConstants).wordBits (primes.getD j.val 0) := by
  rw [primes_eq]
  cases v with
  | narrow => decide +kernel
  | wide => decide +kernel

end Sys2Proof.Machine

namespace Sys2Proof.Proofs

open Sys2Proof.Machine

/-- Settles O59: the tables hold the words that R98's formula gives, and the integer root in it is the witness. -/
theorem constantsFromPrimeRoots : Obligations.ConstantsFromPrimeRoots := by
  refine ⟨resetWith_constants _ _, fun v => ⟨fun i hi => ?_, fun j => ?_⟩⟩
  · rw [roundConstant_default v i hi]
    exact primeRootWord_spec (by decide) _ _
  · rw [initialState_default v j]
    exact primeRootWord_spec (by decide) _ _

/-- Settles O57: a code selects the variant it encodes and a name the variant it names. -/
theorem variantSelection : Obligations.VariantSelection :=
  ⟨fun v => ⟨select_eq_some_iff v .narrow, select_eq_some_iff v .wide, select_eq_none_iff v⟩,
    fun name => ⟨selectName_eq_some_iff name .narrow, selectName_eq_some_iff name .wide⟩⟩

/-- Settles O58: the tables are read off, and the types of the constants bound the sequences. -/
theorem recordInvariants : Obligations.RecordInvariants :=
  ⟨fun _ => ⟨rfl, rfl, rfl, rfl, rfl, rfl, rfl, rfl, rfl⟩, fun _ => ⟨rfl, rfl, rfl, rfl, rfl, rfl, rfl, rfl, rfl⟩,
    fun v c => ⟨length_roundConstants v c, Vector.length_toList, fun _ => roundConstants_lt v c,
      fun _ => mem_initialState_lt v c, amounts_in_word v c⟩⟩

end Sys2Proof.Proofs

namespace Sys2Proof.Machine

/-! The word operations bit by bit (R106 to R109). -/

/-- Storage keeps the low `w` bits of a number that an operation narrows. -/
theorem getLsbD_ofNat_mod {w k : Nat} (hw : w ≤ 64) (hk : k < w) (n : Nat) :
    (BitVec.ofNat 64 (n % 2 ^ w)).getLsbD k = n.testBit k := by
  rw [BitVec.getLsbD_ofNat, Nat.testBit_mod_two_pow, decide_eq_true hk, decide_eq_true (Nat.lt_of_lt_of_le hk hw)]
  simp

/-- A word below `2^w` has no bit from `w` on. -/
theorem getLsbD_eq_false_of_lt {w k : Nat} {x : Word} (hx : x.toNat < 2 ^ w) (hk : w ≤ k) : x.getLsbD k = false :=
  Nat.testBit_eq_false_of_lt (Nat.lt_of_lt_of_le hx (Nat.pow_le_pow_right (by decide) hk))

/-- A bit of a rotated word is one of the bits that stay in the word, or one of the bits that wrap around. -/
theorem getLsbD_rotr_eq_or {w k : Nat} (hw : w ≤ 64) (hk : k < w) (x : Word) (n : Nat) :
    (rotr w x n).getLsbD k = (x.getLsbD (k + n) || (decide (w - n ≤ k) && x.getLsbD (k - (w - n)))) := by
  rw [rotr, getLsbD_ofNat_mod hw hk, Nat.testBit_or, Nat.testBit_shiftRight, Nat.testBit_shiftLeft, Nat.add_comm n k]
  rfl

theorem getLsbD_rotr {w n k : Nat} {x : Word} (hw : w ≤ 64) (hx : x.toNat < 2 ^ w) (hn : n < w) (hk : k < w) :
    (rotr w x n).getLsbD k = x.getLsbD ((k + n) % w) := by
  rw [getLsbD_rotr_eq_or hw hk]
  by_cases hstay : k + n < w
  · rw [Nat.mod_eq_of_lt hstay, decide_eq_false (by omega)]
    simp
  · have hwrap : (k + n) % w = k - (w - n) := by
      rw [Nat.mod_eq_sub_mod (by omega), Nat.mod_eq_of_lt (by omega)]
      omega
    rw [hwrap, getLsbD_eq_false_of_lt hx (by omega), decide_eq_true (by omega)]
    simp

theorem getLsbD_shr (x : Word) (n k : Nat) : (shr x n).getLsbD k = x.getLsbD (k + n) := by
  rw [← BitVec.testBit_toNat, toNat_shr, Nat.testBit_div_two_pow, BitVec.testBit_toNat]

theorem toNat_notW_eq_xor {w : Nat} (hw : w ≤ 64) (x : Word) : (notW w x).toNat = x.toNat ^^^ (2 ^ w - 1) := by
  have hfits : 2 ^ w - 1 < 2 ^ 64 := Nat.sub_one_lt_of_le (Nat.two_pow_pos w) (Nat.pow_le_pow_right (by decide) hw)
  rw [notW, BitVec.toNat_xor, BitVec.toNat_ofNat, Nat.mod_eq_of_lt hfits]

theorem getLsbD_notW {w k : Nat} (hw : w ≤ 64) (hk : k < w) (x : Word) : (notW w x).getLsbD k = !x.getLsbD k := by
  rw [← BitVec.testBit_toNat, toNat_notW_eq_xor hw, Nat.testBit_xor, Nat.testBit_two_pow_sub_one, decide_eq_true hk,
    Bool.xor_true, BitVec.testBit_toNat]

/-- Within `w` bits the exclusive or with `2^w − 1` is a subtraction, since no bit borrows. -/
theorem toNat_notW {w : Nat} {x : Word} (hw : w ≤ 64) (hx : x.toNat < 2 ^ w) :
    (notW w x).toNat = 2 ^ w - 1 - x.toNat := by
  rw [toNat_notW_eq_xor hw, Nat.sub_sub, Nat.add_comm 1]
  refine Nat.eq_of_testBit_eq fun k => ?_
  rw [Nat.testBit_xor, Nat.testBit_two_pow_sub_one, Nat.testBit_two_pow_sub_succ hx]
  by_cases hk : k < w
  · simp [hk]
  · have hzero : x.toNat.testBit k = false := getLsbD_eq_false_of_lt hx (by omega)
    simp [hk, hzero]

/-! A sum of several operands (R106). -/

theorem sumW_singleton {w : Nat} {x : Word} (hw : w ≤ 64) (hx : x.toNat < 2 ^ w) : sumW w [x] = x := by
  refine BitVec.eq_of_toNat_eq ?_
  rw [toNat_sumW hw]
  simpa using Nat.mod_eq_of_lt hx

/-- Reducing after the first sum does not change the sum of all. -/
theorem sumW_cons_cons {w : Nat} (hw : w ≤ 64) (x y : Word) (ys : List Word) :
    sumW w (x :: y :: ys) = sumW w (addW w x y :: ys) := by
  refine BitVec.eq_of_toNat_eq ?_
  rw [toNat_sumW hw, toNat_sumW hw]
  simp [toNat_addW hw, Nat.add_assoc]

/-- The sum that is reduced once is the left-to-right chain of sums. -/
theorem sumW_cons_eq_foldl {w : Nat} (hw : w ≤ 64) (xs : List Word) :
    ∀ x : Word, x.toNat < 2 ^ w → sumW w (x :: xs) = xs.foldl (addW w) x := by
  induction xs with
  | nil => exact fun x hx => sumW_singleton hw hx
  | cons y ys ih =>
    intro x _
    rw [sumW_cons_cons hw, List.foldl_cons]
    exact ih _ (addW_lt hw x y)

/-! The mixing functions bit by bit (R110 to R115). -/

section

variable (v : Variant) (c : Constants) {x : Word} {k : Nat}
  (hx : x.toNat < 2 ^ (v.cfg c).wordBits) (hk : k < (v.cfg c).wordBits)

include hx hk

/-- A rotation by an amount of the record stays in a word (R93, R94). -/
theorem getLsbD_rotr_amount {n : Nat} (hn : n ∈ amounts (v.cfg c)) :
    (rotr (v.cfg c).wordBits x n).getLsbD k = x.getLsbD ((k + n) % (v.cfg c).wordBits) := by
  have := amounts_in_word v c n hn
  exact getLsbD_rotr (v.wordBits_le c) hx (by omega) hk

/-- Two rotations and a shift, the common form of σ0 and σ1. -/
theorem getLsbD_rotr_rotr_shr {l m : Nat} (hl : l ∈ amounts (v.cfg c)) (hm : m ∈ amounts (v.cfg c)) (n : Nat) :
    (rotr (v.cfg c).wordBits x l ^^^ rotr (v.cfg c).wordBits x m ^^^ shr x n).getLsbD k =
      (x.getLsbD ((k + l) % (v.cfg c).wordBits) ^^ x.getLsbD ((k + m) % (v.cfg c).wordBits) ^^ x.getLsbD (k + n)) := by
  rw [BitVec.getLsbD_xor, BitVec.getLsbD_xor, getLsbD_rotr_amount v c hx hk hl, getLsbD_rotr_amount v c hx hk hm,
    getLsbD_shr]

/-- Three rotations, the common form of Σ0 and Σ1. -/
theorem getLsbD_rotr_rotr_rotr {l m n : Nat} (hl : l ∈ amounts (v.cfg c)) (hm : m ∈ amounts (v.cfg c))
    (hn : n ∈ amounts (v.cfg c)) :
    (rotr (v.cfg c).wordBits x l ^^^ rotr (v.cfg c).wordBits x m ^^^ rotr (v.cfg c).wordBits x n).getLsbD k =
      (x.getLsbD ((k + l) % (v.cfg c).wordBits) ^^ x.getLsbD ((k + m) % (v.cfg c).wordBits) ^^
        x.getLsbD ((k + n) % (v.cfg c).wordBits)) := by
  rw [BitVec.getLsbD_xor, BitVec.getLsbD_xor, getLsbD_rotr_amount v c hx hk hl, getLsbD_rotr_amount v c hx hk hm,
    getLsbD_rotr_amount v c hx hk hn]

theorem getLsbD_sigma0 : (sigma0 (v.cfg c) x).getLsbD k =
    (x.getLsbD ((k + (v.cfg c).sched0.a) % (v.cfg c).wordBits) ^^
      x.getLsbD ((k + (v.cfg c).sched0.b) % (v.cfg c).wordBits) ^^ x.getLsbD (k + (v.cfg c).sched0.c)) :=
  getLsbD_rotr_rotr_shr v c hx hk (by simp [amounts]) (by simp [amounts]) _

theorem getLsbD_sigma1 : (sigma1 (v.cfg c) x).getLsbD k =
    (x.getLsbD ((k + (v.cfg c).sched1.a) % (v.cfg c).wordBits) ^^
      x.getLsbD ((k + (v.cfg c).sched1.b) % (v.cfg c).wordBits) ^^ x.getLsbD (k + (v.cfg c).sched1.c)) :=
  getLsbD_rotr_rotr_shr v c hx hk (by simp [amounts]) (by simp [amounts]) _

theorem getLsbD_bigSigma1 : (bigSigma1 (v.cfg c) x).getLsbD k =
    (x.getLsbD ((k + (v.cfg c).comp0.a) % (v.cfg c).wordBits) ^^
      x.getLsbD ((k + (v.cfg c).comp0.b) % (v.cfg c).wordBits) ^^
      x.getLsbD ((k + (v.cfg c).comp0.c) % (v.cfg c).wordBits)) :=
  getLsbD_rotr_rotr_rotr v c hx hk (by simp [amounts]) (by simp [amounts]) (by simp [amounts])

theorem getLsbD_bigSigma0 : (bigSigma0 (v.cfg c) x).getLsbD k =
    (x.getLsbD ((k + (v.cfg c).comp1.a) % (v.cfg c).wordBits) ^^
      x.getLsbD ((k + (v.cfg c).comp1.b) % (v.cfg c).wordBits) ^^
      x.getLsbD ((k + (v.cfg c).comp1.c) % (v.cfg c).wordBits)) :=
  getLsbD_rotr_rotr_rotr v c hx hk (by simp [amounts]) (by simp [amounts]) (by simp [amounts])

end

theorem getLsbD_ch {w k : Nat} (hw : w ≤ 64) (hk : k < w) (e f g : Word) :
    (ch w e f g).getLsbD k = if e.getLsbD k then f.getLsbD k else g.getLsbD k := by
  rw [ch, BitVec.getLsbD_xor, BitVec.getLsbD_and, BitVec.getLsbD_and, getLsbD_notW hw hk]
  cases e.getLsbD k <;> simp

/-- The operands f and g bound Ch: each half of its exclusive or is masked by one of them. -/
theorem ch_lt {w : Nat} {e f g : Word} (hf : f.toNat < 2 ^ w) (hg : g.toNat < 2 ^ w) :
    (ch w e f g).toNat < 2 ^ w := by
  rw [ch, BitVec.toNat_xor, BitVec.toNat_and, BitVec.toNat_and]
  exact Nat.xor_lt_two_pow (Nat.and_lt_two_pow _ hf) (Nat.and_lt_two_pow _ hg)

theorem xor_and_eq_majority : ∀ a b c : Bool,
    ((a && b) ^^ (a && c) ^^ (b && c)) = decide (2 ≤ a.toNat + b.toNat + c.toNat) := by decide

theorem getLsbD_maj (a b c : Word) (k : Nat) : (maj a b c).getLsbD k =
    decide (2 ≤ (a.getLsbD k).toNat + (b.getLsbD k).toNat + (c.getLsbD k).toNat) := by
  rw [maj, BitVec.getLsbD_xor, BitVec.getLsbD_xor, BitVec.getLsbD_and, BitVec.getLsbD_and, BitVec.getLsbD_and]
  exact xor_and_eq_majority ..

end Sys2Proof.Machine

namespace Sys2Proof.Proofs

open Sys2Proof.Machine

/-- Settles O43: each operation narrows an exact number, whose bits are those of its operand, moved. -/
theorem wordOperations : Obligations.WordOperations := by
  intro w hw
  have hw64 : w ≤ 64 := by omega
  exact ⟨toNat_addW hw64, toNat_sumW hw64, fun x xs => sumW_cons_eq_foldl hw64 xs x,
    fun x n k hx hn => ⟨rotr_lt hw64 x n, getLsbD_rotr hw64 hx hn⟩, toNat_shr, fun _ => toNat_notW hw64⟩

/-- Settles O44: the bits of each function at the amounts that the two records hold. -/
theorem mixingFunctions : Obligations.MixingFunctions := by
  refine ⟨fun c x k hx hk => ?_, fun c x k hk => ?_⟩
  · exact ⟨getLsbD_sigma0 .narrow c hx hk, getLsbD_sigma1 .narrow c hx hk, getLsbD_bigSigma1 .narrow c hx hk,
      getLsbD_bigSigma0 .narrow c hx hk⟩
  · exact ⟨getLsbD_sigma0 .wide c x.isLt hk, getLsbD_sigma1 .wide c x.isLt hk, getLsbD_bigSigma1 .wide c x.isLt hk,
      getLsbD_bigSigma0 .wide c x.isLt hk⟩

/-- Settles O45: a bit of Ch and of Maj is a function of the three bits at its place. -/
theorem choiceAndMajority : Obligations.ChoiceAndMajority :=
  ⟨fun _ e f g _ hw hk => getLsbD_ch (by omega) hk e f g, fun _ _ _ _ => ch_lt, getLsbD_maj⟩

end Sys2Proof.Proofs

namespace Sys2Proof.Machine

/-! The shape of the padded stream, in bytes and in bits: the message, a marker, a fill, the length field (R117, R121). -/

section

variable {α : Type} (message : List α) (marker fill : α) (n : Nat) (field : List α)

theorem getElem?_marker :
    (message ++ [marker] ++ List.replicate n fill ++ field)[message.length]? = some marker := by
  simp

theorem getElem?_fill {k : Nat} (hlo : message.length < k) (hhi : k < message.length + 1 + n) :
    (message ++ [marker] ++ List.replicate n fill ++ field)[k]? = some fill := by
  rw [List.getElem?_append_left (by simp; omega), List.getElem?_append_right (by simp; omega),
    List.getElem?_replicate, if_pos (by simp; omega)]

end

section

variable (v : Variant) (c : Constants)

/-! The quantities of R9, and the amount of padding (R118, R121). -/

theorem blockBytes_pos : 0 < (v.cfg c).blockBytes := by cases v <;> simp

theorem blockBits_eq : (v.cfg c).blockBits = 8 * (v.cfg c).blockBytes := by cases v <;> simp

theorem lengthFieldBits_eq : (v.cfg c).lengthFieldBits = 8 * (v.cfg c).lengthFieldBytes := by cases v <;> simp

theorem zeroBytes_lt (n : Nat) : zeroBytes (v.cfg c) n < (v.cfg c).blockBytes := by
  cases v <;> simp [zeroBytes] <;> omega

/-- After the zero bytes the length field begins at the byte residue TB (R121). -/
theorem add_zeroBytes_mod (n : Nat) :
    (n + 1 + zeroBytes (v.cfg c) n) % (v.cfg c).blockBytes = (v.cfg c).targetBytes := by
  cases v <;> simp [zeroBytes] <;> omega

/-- After the gap the length field begins at the bit residue that the record names (R117). -/
theorem add_zeroGap_mod (n : Nat) :
    (n + zeroGap (v.cfg c) n) % (v.cfg c).blockBits = (v.cfg c).paddingTargetBits := by
  cases v <;> simp [zeroGap] <;> omega

/-- The gap of a message of whole bytes is the rest of the byte 0x80 and the zero bytes (R118, R121). -/
theorem zeroGap_bits (n : Nat) : zeroGap (v.cfg c) (8 * n + 1) = 7 + 8 * zeroBytes (v.cfg c) n := by
  cases v <;> simp [zeroGap, zeroBytes] <;> omega

/-- The padded stream is a whole number of blocks (R122). -/
theorem length_padBytes_eq (m : List Byte) :
    (padBytes (v.cfg c) m).length = (v.cfg c).blockBytes * Claims.blocksOf (v.cfg c) m.length := by
  rw [length_padBytes]
  cases v <;> simp [zeroBytes, Claims.blocksOf] <;> omega

/-- The check after padding cannot fail (R120). -/
theorem length_padBytes_mod (m : List Byte) : (padBytes (v.cfg c) m).length % (v.cfg c).blockBytes = 0 := by
  rw [length_padBytes_eq, Nat.mul_mod_right]

end

/-! The cells of the padded stream (R121). -/

section

variable (cfg : VariantConfig) (m : List Byte)

theorem getElem?_padBytes_message {a : Nat} (h : a < m.length) : (padBytes cfg m)[a]? = m[a]? := by
  rw [padBytes, List.append_assoc, List.append_assoc, List.getElem?_append_left h]

theorem getElem?_padBytes_marker : (padBytes cfg m)[m.length]? = some 0x80 := getElem?_marker ..

theorem getElem?_padBytes_zero {a : Nat} (hlo : m.length < a)
    (hhi : a + cfg.lengthFieldBytes < (padBytes cfg m).length) : (padBytes cfg m)[a]? = some 0 := by
  rw [length_padBytes] at hhi
  exact getElem?_fill _ _ _ _ _ hlo (by omega)

/-- Byte `k` of an encoding, counted from the last (R87). -/
theorem getElem?_toBE_from_last {n k : Nat} (x : Nat) (hk : k < n) :
    (toBE n x)[n - 1 - k]? = some (BitVec.ofNat 8 (x / 256 ^ k)) := by
  have hback : n - 1 - (n - 1 - k) = k := by omega
  rw [toBE, List.getElem?_map, List.getElem?_range (by omega), Option.map_some, hback, Nat.pow_mul]

theorem getElem?_padBytes_lengthField {k : Nat} (hk : k < cfg.lengthFieldBytes) :
    (padBytes cfg m)[(padBytes cfg m).length - 1 - k]? = some (BitVec.ofNat 8 (8 * m.length / 256 ^ k)) := by
  rw [← getElem?_toBE_from_last _ hk, length_padBytes, padBytes, List.getElem?_append_right (by simp; omega)]
  congr 1
  simp
  omega

end

/-! The bits of bytes (R61, R88). -/

theorem bitsMsbFirst_append (l r : List Byte) : bitsMsbFirst (l ++ r) = bitsMsbFirst l ++ bitsMsbFirst r :=
  List.flatMap_append

theorem bitsMsbFirst_zeros (n : Nat) : bitsMsbFirst (List.replicate n 0) = List.replicate (8 * n) false := by
  induction n with
  | zero => rfl
  | succ n ih =>
    rw [List.replicate_succ, ← List.singleton_append, bitsMsbFirst_append, ih, Nat.mul_succ, Nat.add_comm,
      List.replicate_add]
    rfl

theorem bitsNat_append (l r : List Bool) :
    Claims.bitsNat (l ++ r) = 2 ^ r.length * Claims.bitsNat l + Claims.bitsNat r := by
  induction r using List.reverseRecOn with
  | nil => simp [Claims.bitsNat]
  | append_singleton r x ih =>
    have hstep (bits : List Bool) : Claims.bitsNat (bits ++ [x]) = 2 * Claims.bitsNat bits + x.toNat := by
      simp [Claims.bitsNat, List.foldl_append]
    rw [← List.append_assoc, hstep, hstep, ih, List.length_append, List.length_singleton]
    ring

theorem bitsNat_byteBits (b : Byte) : Claims.bitsNat (byteBits b) = b.toNat := by
  have hb : b.toNat < 256 := b.isLt
  have hbit (k : Nat) : (b.getLsbD k).toNat = b.toNat / 2 ^ k % 2 := Nat.toNat_testBit ..
  simp only [Claims.bitsNat, byteBits, List.range_succ, List.range_zero, List.nil_append, List.cons_append, List.map_cons,
    List.map_nil, List.foldl_cons, List.foldl_nil, hbit]
  omega

/-- The bits of a byte string encode its big-endian number (R87, R88). -/
theorem bitsNat_bitsMsbFirst (s : List Byte) : Claims.bitsNat (bitsMsbFirst s) = beNat s := by
  induction s using List.reverseRecOn with
  | nil => rfl
  | append_singleton s b ih =>
    have hb : bitsMsbFirst [b] = byteBits b := List.append_nil _
    rw [bitsMsbFirst_append, bitsNat_append, ih, hb, length_byteBits, bitsNat_byteBits, beNat_append_singleton]
    norm_num

/-! The function `pad` (R117, R119). -/

section

variable {cfg : VariantConfig} {m : List Byte}

theorem tooLong_iff {n : Nat} : tooLong cfg n = true ↔ 2 ^ cfg.lengthFieldBits ≤ 8 * n := decide_eq_true_iff

theorem tooLong_eq_false_iff {n : Nat} : tooLong cfg n = false ↔ 8 * n < 2 ^ cfg.lengthFieldBits := by
  rw [tooLong, decide_eq_false_iff_not, not_le]

theorem padBits_of_tooLong (h : 2 ^ cfg.lengthFieldBits ≤ 8 * m.length) : padBits cfg m = .error .messageTooLong :=
  if_pos (tooLong_iff.2 h)

theorem padBits_of_fits (h : 8 * m.length < 2 ^ cfg.lengthFieldBits) :
    padBits cfg m = .ok (bitsMsbFirst m ++ [true] ++
      List.replicate (zeroGap cfg (8 * m.length + 1)) false ++
      bitsMsbFirst (toBE cfg.lengthFieldBytes (8 * m.length))) := by
  rw [padBits, tooLong_eq_false_iff.2 h]
  rfl

theorem padBits_eq_error_iff :
    padBits cfg m = .error .messageTooLong ↔ 2 ^ cfg.lengthFieldBits ≤ 8 * m.length := by
  refine ⟨fun h => ?_, padBits_of_tooLong⟩
  by_contra hfits
  rw [padBits_of_fits (not_le.1 hfits)] at h
  cases h

/-- A stream comes only of a message that fits (R119). -/
theorem fits_of_padBits_eq_ok {s : List Bool} (h : padBits cfg m = .ok s) : 8 * m.length < 2 ^ cfg.lengthFieldBits := by
  by_contra hlong
  rw [padBits_of_tooLong (not_lt.1 hlong)] at h
  cases h

end

/-- The byte form of the padded stream (R121): 0x80 is the marker and the first 7 bits of the gap. -/
theorem bitsMsbFirst_padBytes (v : Variant) (c : Constants) (m : List Byte) :
    bitsMsbFirst (padBytes (v.cfg c) m) = bitsMsbFirst m ++ [true] ++
      List.replicate (zeroGap (v.cfg c) (8 * m.length + 1)) false ++
      bitsMsbFirst (toBE (v.cfg c).lengthFieldBytes (8 * m.length)) := by
  have hmarker : bitsMsbFirst [0x80] = [true] ++ List.replicate 7 false := by decide
  simp only [padBytes, bitsMsbFirst_append, bitsMsbFirst_zeros, hmarker, zeroGap_bits, List.replicate_add,
    List.append_assoc]

theorem padBits_eq_padBytes (v : Variant) (c : Constants) {m : List Byte}
    (h : 8 * m.length < 2 ^ (v.cfg c).lengthFieldBits) :
    padBits (v.cfg c) m = .ok (bitsMsbFirst (padBytes (v.cfg c) m)) := by
  rw [padBits_of_fits h, bitsMsbFirst_padBytes]

/-! The command PAD (R126), which HASH performs too. -/

theorem Memory.readBytes_eq_none_iff (bg : Option Byte) (m : Memory) (n : Nat) :
    ∀ a, Memory.readBytes bg m a n = none ↔ ∃ k, k < n ∧ Memory.read bg m (a + k) = none := by
  induction n with
  | zero => simp [Memory.readBytes]
  | succ n ih =>
    intro a
    rw [Nat.exists_lt_succ_left]
    simp only [← Nat.add_assoc, Nat.add_right_comm a _ 1, ← ih, Nat.add_zero]
    rw [Memory.readBytes]
    cases Memory.read bg m a <;> cases Memory.readBytes bg m (a + 1) n <;> simp

/-- After a write of bytes from address 0 on, the cells below their number hold them. -/
theorem Memory.read_writeBytes_zero (bg : Option Byte) (m : Memory) {bytes : List Byte} {a : Nat} (h : a < bytes.length) :
    Memory.read bg (Memory.writeBytes bg m 0 bytes) a = bytes[a]? := by
  rw [Memory.read_writeBytes, if_pos (by omega), Nat.sub_zero]

section

variable {s : State} {c : Instr} {m : List Byte}

theorem message_eq_none_iff :
    s.message = none ↔ ∃ a, a < s.msglen.toNat ∧ Claims.msgAt s a = none := by
  simp [State.message, Memory.readBytes_eq_none_iff]

theorem getElem?_message (h : s.message = some m) {a : Nat} (ha : a < s.msglen.toNat) : m[a]? = Claims.msgAt s a := by
  obtain ⟨_, hcells⟩ := (Memory.readBytes_eq_some_iff ..).1 h
  rw [← hcells a ha, Nat.zero_add]

theorem padBody_of_tooLong (h : 2 ^ s.cfg.lengthFieldBits ≤ 8 * s.msglen.toNat) :
    padBody c s = .next (raiseError .messageTooLong s) :=
  if_pos (tooLong_iff.2 h)

/-- A message that is not too long goes on to the model faults (R126, R171). -/
theorem padBody_of_overCapacity (hfits : 8 * s.msglen.toNat < 2 ^ s.cfg.lengthFieldBits)
    (hcap : s.msgCap.val < s.msglen.toNat) : padBody c s = .fault (.messageOverCapacity c) := by
  simp [padBody, tooLong_eq_false_iff.2 hfits, hcap]

theorem padBody_of_unwritten (hfits : 8 * s.msglen.toNat < 2 ^ s.cfg.lengthFieldBits)
    (hcap : s.msglen.toNat ≤ s.msgCap.val) (hm : s.message = none) :
    padBody c s = .fault (.unwrittenMessageByte c) := by
  simp [padBody, tooLong_eq_false_iff.2 hfits, hcap, hm]

theorem padBody_of_message (hm : s.holdsMessage s.cfg m) :
    padBody c s = .next { s with
      padbuf := Memory.writeBytes ByteSpace.padbuf.background s.padbuf 0 (padBytes s.cfg m)
      padlen := BitVec.ofNat 64 (padBytes s.cfg m).length
      phase := .parse } := by
  obtain ⟨hm, hcap, hfits⟩ := hm
  have hcheck : (padBytes s.cfg m).length % s.cfg.blockBytes = 0 := length_padBytes_mod ..
  simp only [padBody, tooLong_eq_false_iff.2 hfits, not_lt.2 hcap, hm, storePadded, hcheck, ne_eq, not_true_eq_false,
    if_false, Bool.false_eq_true]

theorem exec_pad_of_preprocess (hp : s.phase = .preprocess) : exec .pad s = padBody .pad s :=
  gated_of_legal (by simp [hp]) (by simp [State.legal, hp])

end

end Sys2Proof.Machine

namespace Sys2Proof.Proofs

open Sys2Proof.Machine Sys2Proof.Claims

/-- Settles O48: the bounds are an eighth of 2^64 and of 2^128. -/
theorem messageTooLongBound : Obligations.MessageTooLongBound := by
  refine ⟨fun c n => ?_, fun c n => ?_, fun c n => ?_, fun v c m => padBits_eq_error_iff⟩
  · rw [tooLong_iff, cfgNarrow_lengthFieldBits]
    omega
  · rw [tooLong_iff, cfgWide_lengthFieldBits]
    omega
  · have hn : n.toNat < 2 ^ 64 := n.isLt
    rw [tooLong_eq_false_iff, cfgWide_lengthFieldBits]
    omega

/-- Settles O49: the bits of the byte form are the stream of `pad`. -/
theorem padBitsArePadBytes : Obligations.PadBitsArePadBytes := fun v c m h =>
  ⟨padBits_eq_padBytes v c h, zeroBytes (v.cfg c) m.length, zeroBytes_lt .., add_zeroBytes_mod .., rfl⟩

/-- Settles O50: the length is BB times the number of blocks, and one block fewer is too short. -/
theorem paddedLengthIsSmallestMultiple : Obligations.PaddedLengthIsSmallestMultiple := by
  refine ⟨fun v c m => ⟨length_padBytes_pos .., length_padBytes .., length_padBytes_mod .., ?_, fun q hq hle => ?_, ?_⟩,
    fun c n => ?_, fun c n => ?_⟩
  · rw [length_padBytes]
    omega
  · obtain ⟨k, rfl⟩ := Nat.dvd_of_mod_eq_zero hq
    have hk : (m.length + (v.cfg c).lengthFieldBytes) / (v.cfg c).blockBytes < k :=
      Nat.div_lt_of_lt_mul (by omega)
    rw [length_padBytes_eq]
    exact Nat.mul_le_mul_left _ hk
  · rw [length_padBytes_eq, Nat.mul_div_cancel_left _ (blockBytes_pos v c)]
  · simp only [blocksOf, cfgNarrow_lengthFieldBytes, cfgNarrow_blockBytes]
    omega
  · simp only [blocksOf, cfgWide_lengthFieldBytes, cfgWide_blockBytes]
    omega

/-- Settles O51: 0x80, the length field and at most BB − 1 zero bytes. -/
theorem paddingOverhead : Obligations.PaddingOverhead := by
  refine ⟨fun c m => ?_, fun c m => ?_, fun s v c m h => ?_⟩
  · have hz := zeroBytes_lt .narrow c m.length
    simp only [cfg_of_narrow, cfgNarrow_blockBytes] at hz
    rw [length_padBytes, cfgNarrow_lengthFieldBytes]
    omega
  · have hz := zeroBytes_lt .wide c m.length
    simp only [cfg_of_wide, cfgWide_blockBytes] at hz
    rw [length_padBytes, cfgWide_lengthFieldBytes]
    omega
  · exact (length_padBytes_le v c m).trans (Nat.add_le_add_right h _)

/-- Settles O52: the four parts of the stream, each at its place. -/
theorem paddingProperties : Obligations.PaddingProperties := by
  intro v c m s hs
  have hfits := fits_of_padBits_eq_ok hs
  have hbytes : s = bitsMsbFirst (padBytes (v.cfg c) m) := Except.ok.inj (hs.symm.trans (padBits_eq_padBytes v c hfits))
  have hlen : s.length = 8 * (padBytes (v.cfg c) m).length := by rw [hbytes, length_bitsMsbFirst]
  have hfield : s.length - (v.cfg c).lengthFieldBits = 8 * m.length + 1 + zeroGap (v.cfg c) (8 * m.length + 1) := by
    rw [hlen, length_padBytes, zeroGap_bits, lengthFieldBits_eq]
    omega
  have hmessage : 8 * m.length = (bitsMsbFirst m).length := (length_bitsMsbFirst m).symm
  have hparts := hbytes.trans (bitsMsbFirst_padBytes v c m)
  refine ⟨?_, ?_, ?_, ?_, fun k hlo hhi => ?_, ?_, ?_⟩
  · have := length_padBytes_pos (v.cfg c) m
    omega
  · rw [hlen, blockBits_eq, Nat.mul_mod_mul_left, length_padBytes_mod]
  · rw [hparts, List.append_assoc, List.append_assoc, List.take_left' hmessage.symm]
  · rw [hparts, hmessage]
    exact getElem?_marker ..
  · rw [hparts]
    exact getElem?_fill _ _ _ _ _ (hmessage ▸ hlo) (by rw [← hmessage]; omega)
  · rw [hfield, add_zeroGap_mod]
  · rw [hfield, hparts, List.drop_left' (by simp; omega), bitsNat_bitsMsbFirst,
      beNat_toBE _ _ (lengthFieldBits_eq v c ▸ hfits)]

/-- Settles O25: the cells of PADBUF below PADLEN are the bytes of the padded stream, part by part. -/
theorem padStoresPaddedStream : Obligations.PadStoresPaddedStream := by
  intro s
  refine ⟨gated_of_error, fun he hp => gated_of_not_legal he (by simpa [State.legal] using hp), fun hp hlong => ?_,
    fun hp hfits hcap => ?_, fun hp hfits hcap hun => ?_, fun hp hfits hcap hwr => ?_⟩ <;>
    rw [exec_pad_of_preprocess hp]
  · exact padBody_of_tooLong hlong
  · exact padBody_of_overCapacity hfits hcap
  · exact padBody_of_unwritten hfits hcap (message_eq_none_iff.2 hun)
  · obtain ⟨m, hm⟩ : ∃ m, s.message = some m := Option.ne_none_iff_exists'.1 fun hnone => by
      obtain ⟨a, ha, hcell⟩ := message_eq_none_iff.1 hnone
      exact hwr a ha hcell
    have hpadlen := (length_padBytes_message hcap hm).2
    have hlen := length_padBytes s.cfg m
    refine ⟨_, padBody_of_message ⟨hm, hcap, hfits⟩, rfl, ?_⟩
    simp only [hpadlen, ← length_message hm]
    have hcell {a : Nat} (ha : a < (padBytes s.cfg m).length) :=
      Memory.read_writeBytes_zero ByteSpace.padbuf.background s.padbuf ha
    refine ⟨length_padBytes_eq .., fun a ha => ?_, ?_, fun a hlo hhi => ?_, fun k hk => ?_, fun a ha => ?_⟩
    · have hread := getElem?_message hm (length_message hm ▸ ha)
      exact (hcell (by omega)).trans ((getElem?_padBytes_message s.cfg m ha).trans hread)
    · exact (hcell (by omega)).trans (getElem?_padBytes_marker s.cfg m)
    · exact (hcell (by omega)).trans (getElem?_padBytes_zero s.cfg m hlo hhi)
    · exact (hcell (by omega)).trans (getElem?_padBytes_lengthField s.cfg m hk)
    · exact Memory.read_writeBytes_outside _ _ _ (.inr (by omega))

end Sys2Proof.Proofs

namespace Sys2Proof.Machine

open Sys2Proof.Claims

/-! A digest, character by character (R89, R149). -/

theorem hexChar_eq_hexAscii {d : Nat} (hd : d < 16) : hexChar d = hexAscii d := by
  interval_cases d <;> rfl

/-- An element of concatenated lists of one length `n`: the quotient by `n` names the list, the remainder the place in it. -/
theorem getElem?_flatMap_of_length {α β : Type} {f : α → List β} {n : Nat} (hn : 0 < n) (hf : ∀ x, (f x).length = n)
    (xs : List α) : ∀ k, (xs.flatMap f)[k]? = xs[k / n]?.bind fun x => (f x)[k % n]? := by
  induction xs with
  | nil => simp
  | cons x xs ih =>
    intro k
    rw [List.flatMap_cons]
    by_cases hk : k < n
    · rw [List.getElem?_append_left (by rwa [hf]), Nat.div_eq_of_lt hk, Nat.mod_eq_of_lt hk]
      rfl
    · have hle : n ≤ k := by omega
      rw [List.getElem?_append_right (by rwa [hf]), hf, ih, Nat.div_eq_sub_div hn hle, Nat.mod_eq_sub_mod hle]
      rfl

theorem getElem?_wordHex {w k : Nat} (hk : k < w / 4) (x : Word) :
    (wordHex w x)[k]? = some (hexAscii (x.toNat / 16 ^ (w / 4 - 1 - k) % 16)) := by
  rw [wordHex, List.getElem?_map, List.getElem?_range hk, Option.map_some,
    hexChar_eq_hexAscii (Nat.mod_lt _ (by decide)), Nat.pow_mul]

theorem getElem?_formatDigest (v : Variant) (c : Constants) (h : Vector Word 8) {k : Nat}
    (hk : k < (v.cfg c).digestChars) : (formatDigest (v.cfg c) h)[k]? = some (digestByte (v.cfg c) h k) := by
  have hpos : 0 < (v.cfg c).wordBits / 4 := by cases v <;> simp
  have hword : k / ((v.cfg c).wordBits / 4) < h.toList.length := by
    rw [Vector.length_toList]
    refine Nat.div_lt_of_lt_mul ?_
    cases v <;> simp at hk ⊢ <;> omega
  rw [formatDigest, getElem?_flatMap_of_length hpos (length_wordHex _), List.getElem?_eq_getElem hword,
    Option.bind_some, getElem?_wordHex (Nat.mod_lt _ hpos), digestByte, List.getD_eq_getElem _ _ hword]

/-! The entry into FINALIZE (R153). -/

section

variable {s t u : State}

/-- What DIGEST shows in `t` after the digest of `u` has been written over the DIGEST of `s` (R153, R158). -/
theorem digestShows_of_writeDigest (hu : u.digest = s.digest) (ht : t.digest = u.writeDigest u.digestImage) :
    DigestShows u.cfg u.h s t := by
  unfold DigestShows digestAt
  rw [ht]
  refine ⟨fun k hk => ?_, fun k => read_digestImage_tail u, fun k hk => ?_⟩
  · have hlen : (formatDigest u.cfg u.h).length = u.cfg.digestChars := length_formatDigest ..
    have hcell := ((Memory.readBytes_eq_some_iff ..).1 (readBytes_digestImage u)).2 k hk
    rw [Nat.zero_add] at hcell
    exact hcell.trans (getElem?_formatDigest _ _ _ hk)
  · rw [read_writeDigest, if_neg (by rw [length_digestImage]; omega), hu]

theorem entersFinalize_finalize (hu : u.digest = s.digest) : EntersFinalize u.cfg u.h s (finalize u) u :=
  ⟨rfl, toNat_digestChars u, digestShows_of_writeDigest hu (finalize_digest u)⟩

end

/-! The function `parse_blocks` (R128, R129). -/

section

variable {α : Type} {b n : Nat} {s : List α}

/-- The first `n` slices of `b` elements each, in order: the blocks that `parse_blocks` answers (R128). -/
def slices (b n : Nat) (s : List α) : List (List α) :=
  (List.range n).map fun k => (s.drop (k * b)).take b

@[simp] theorem length_slices : (slices b n s).length = n := by simp [slices]

theorem slices_succ : slices b (n + 1) s = slices b n s ++ [(s.drop (n * b)).take b] := by
  simp [slices, List.range_succ]

/-- Slices that lie inside the list are full. -/
theorem length_of_mem_slices {x : List α} (hn : n * b ≤ s.length) (hx : x ∈ slices b n s) : x.length = b := by
  obtain ⟨k, hk, rfl⟩ := List.mem_map.1 hx
  have hend : (k + 1) * b ≤ n * b := Nat.mul_le_mul_right b (List.mem_range.1 hk)
  rw [Nat.succ_mul] at hend
  rw [List.length_take, List.length_drop]
  omega

/-- Adjacent slices concatenate to the part of the list that they were cut from. -/
theorem flatten_slices : (slices b n s).flatten = s.take (n * b) := by
  induction n with
  | zero => simp [slices]
  | succ n ih => rw [slices_succ, List.flatten_append, ih, List.flatten_singleton, Nat.succ_mul, List.take_add]

end

section

variable {cfg : VariantConfig} {s : List Bool}

theorem parseBlocks_of_partial (h : s.length % cfg.blockBits ≠ 0) : parseBlocks cfg s = .error .invalidLength :=
  if_pos h

theorem parseBlocks_of_whole (h : s.length % cfg.blockBits = 0) :
    parseBlocks cfg s = .ok (slices cfg.blockBits (s.length / cfg.blockBits) s) :=
  if_neg (not_not.2 h)

end

/-! The command PARSE (R132). -/

section

variable {s : State}

theorem exec_parse_of_parse (hp : s.phase = .parse) : exec .parse s = parseBody s :=
  gated_of_legal (by simp [hp]) (by simp [State.legal, hp])

theorem parseBody_of_partial (h : 8 * s.padlen.toNat % s.cfg.blockBits ≠ 0) :
    parseBody s = .next (raiseError .invalidLength s) :=
  if_pos h

theorem parseBody_of_blocks (h : 8 * s.padlen.toNat % s.cfg.blockBits = 0) (h0 : s.blockCount ≠ 0) :
    parseBody s = .next { setBlockCount s with phase := .expandSchedule } := by
  rw [parseBody, if_neg (not_not.2 h), if_neg h0]

theorem parseBody_of_empty (h : 8 * s.padlen.toNat % s.cfg.blockBits = 0) (h0 : s.blockCount = 0) :
    parseBody s = .next (finalize (setBlockCount s)) := by
  rw [parseBody, if_neg (not_not.2 h), if_pos h0]

/-- A stream of whole blocks without a block is empty. -/
theorem padlen_eq_zero_of_blockCount (h : 8 * s.padlen.toNat % s.cfg.blockBits = 0) (h0 : s.blockCount = 0) :
    s.padlen.toNat = 0 := by
  have hbits := Nat.eq_zero_of_dvd_of_div_eq_zero (Nat.dvd_of_mod_eq_zero h) h0
  omega

theorem blockCount_of_padlen_eq_zero (h : s.padlen.toNat = 0) : s.blockCount = 0 := by
  rw [State.blockCount, h, Nat.mul_zero, Nat.zero_div]

theorem setBlockCount_of_blockCount_eq_zero (h0 : s.blockCount = 0) :
    setBlockCount s = { s with nblk := 0, blkidx := 0 } := by
  rw [setBlockCount, h0]
  rfl

end

end Sys2Proof.Machine

namespace Sys2Proof.Proofs

open Sys2Proof.Machine Sys2Proof.Claims

/-- Settles O26: the phase check, then the three branches of PARSE's body. -/
theorem parseCountsBlocks : Obligations.ParseCountsBlocks := by
  intro s
  refine ⟨gated_of_error, fun he hp => gated_of_not_legal he (by simpa [State.legal] using hp), fun hp hpart => ?_,
    fun hp hwhole hne => ?_, fun hp hempty => ?_⟩ <;>
    rw [exec_parse_of_parse hp]
  · exact parseBody_of_partial hpart
  · exact ⟨_, parseBody_of_blocks hwhole (mt (padlen_eq_zero_of_blockCount hwhole) hne), rfl, toNat_blockCount s⟩
  · have h0 := blockCount_of_padlen_eq_zero hempty
    refine ⟨_, parseBody_of_empty (by rw [hempty, Nat.mul_zero, Nat.zero_mod]) h0, ?_⟩
    rw [← setBlockCount_of_blockCount_eq_zero h0]
    exact entersFinalize_finalize (u := setBlockCount s) rfl

/-- Settles O53: the slices cover the string, since its length is the number of blocks times their length. -/
theorem parseBlocksSlices : Obligations.ParseBlocksSlices := by
  refine fun v c s => ⟨parseBlocks_of_partial, fun hwhole => ?_⟩
  have hlen : s.length / (v.cfg c).blockBits * (v.cfg c).blockBits = s.length :=
    Nat.div_mul_cancel (Nat.dvd_of_mod_eq_zero hwhole)
  refine ⟨_, parseBlocks_of_whole hwhole, length_slices, fun b hb => length_of_mem_slices hlen.le hb, ?_⟩
  rw [flatten_slices, hlen, List.take_length]

end Sys2Proof.Proofs

namespace Sys2Proof.Machine

/-! A schedule as it is extended (R135, R136). -/

section

variable {cfg : VariantConfig} {n i : Nat} {ws : List Word}

theorem getElem?_extendSchedule_of_lt (hi : i < ws.length) : (extendSchedule cfg n ws)[i]? = ws[i]? := by
  obtain ⟨added, heq⟩ := extendSchedule_prefix cfg n ws
  rw [← heq, List.getElem?_append_left hi]

/-- A word that an extension adds is the recurrence of the words before it (R135). -/
theorem getElem?_extendSchedule_of_le (hlo : ws.length ≤ i) (hhi : i < ws.length + n) :
    (extendSchedule cfg n ws)[i]? = some (nextWord cfg ((extendSchedule cfg n ws).take i)) := by
  induction n generalizing ws with
  | zero => omega
  | succ n ih =>
    have hlen : (ws ++ [nextWord cfg ws]).length = ws.length + 1 := List.length_append
    rw [extendSchedule]
    obtain rfl | hlt := hlo.eq_or_lt
    · have htake : (extendSchedule cfg n (ws ++ [nextWord cfg ws])).take ws.length = ws :=
        (List.prefix_iff_eq_take.1 ((List.prefix_append ..).trans (extendSchedule_prefix ..))).symm
      rw [getElem?_extendSchedule_of_lt (by omega), htake, List.getElem?_concat_length]
    · exact ih (by omega) (by omega)

/-- The recurrence reads words that the schedule so far holds: the four offsets are at most 16 (R135). -/
theorem nextWord_take (hlo : 16 ≤ i) (hhi : i ≤ ws.length) : nextWord cfg (ws.take i) =
    sumW cfg.wordBits [ws.getD (i - 16) 0, sigma0 cfg (ws.getD (i - 15) 0), ws.getD (i - 7) 0,
      sigma1 cfg (ws.getD (i - 2) 0)] := by
  have hread : ∀ k, k < i → (ws.take i).getD k 0 = ws.getD k 0 := fun k hk => by
    rw [List.getD_eq_getElem?_getD, List.getElem?_take_of_lt hk, ← List.getD_eq_getElem?_getD]
  rw [nextWord, List.length_take_of_le hhi, hread _ (by omega), hread _ (by omega), hread _ (by omega),
    hread _ (by omega)]

end

/-! The words of a block's schedule (R134, R135, R137). -/

section

variable (v : Variant) (c : Constants) (block : List Byte) {i : Nat}

/-- WB bytes at most make a value of `word_bits` bits (R62, R87). -/
theorem beNat_wordBytes_lt (bytes : List Byte) : beNat (bytes.take (v.cfg c).wordBytes) < 2 ^ (v.cfg c).wordBits :=
  calc beNat (bytes.take (v.cfg c).wordBytes)
      < 256 ^ (bytes.take (v.cfg c).wordBytes).length := beNat_lt _
    _ ≤ 256 ^ (v.cfg c).wordBytes := Nat.pow_le_pow_right (by decide) (List.length_take_le ..)
    _ = 2 ^ (v.cfg c).wordBits := by cases v <;> simp

theorem toNat_blockWord : (blockWord (v.cfg c) block i).toNat =
    beNat ((block.drop (i * (v.cfg c).wordBytes)).take (v.cfg c).wordBytes) :=
  Nat.mod_eq_of_lt ((beNat_wordBytes_lt v c _).trans_le (Nat.pow_le_pow_right (by decide) (v.wordBits_le c)))

theorem length_expand : (expand (v.cfg c) block).length = (v.cfg c).rounds := by
  rw [expand, length_extendSchedule, length_leadingWords]
  cases v <;> simp

theorem getD_expand_of_lt (hi : i < 16) : (expand (v.cfg c) block).getD i 0 = blockWord (v.cfg c) block i := by
  rw [List.getD_eq_getElem?_getD, expand, getElem?_extendSchedule_of_lt (by rwa [length_leadingWords]), leadingWords,
    List.getElem?_map, List.getElem?_range hi, Option.map_some, Option.getD_some]

theorem getD_expand_of_le (hlo : 16 ≤ i) (hhi : i < (v.cfg c).rounds) :
    (expand (v.cfg c) block).getD i 0 = sumW (v.cfg c).wordBits
      [(expand (v.cfg c) block).getD (i - 16) 0, sigma0 (v.cfg c) ((expand (v.cfg c) block).getD (i - 15) 0),
        (expand (v.cfg c) block).getD (i - 7) 0, sigma1 (v.cfg c) ((expand (v.cfg c) block).getD (i - 2) 0)] := by
  rw [← nextWord_take hlo (by rw [length_expand]; exact hhi.le), List.getD_eq_getElem?_getD, expand,
    getElem?_extendSchedule_of_le (by rwa [length_leadingWords]) (by rw [length_leadingWords]; omega), Option.getD_some]

/-- Every word of a schedule fits in `word_bits` (R137). -/
theorem expand_lt {x : Word} (hx : x ∈ expand (v.cfg c) block) : x.toNat < 2 ^ (v.cfg c).wordBits := by
  obtain ⟨i, hi, rfl⟩ := List.getElem_of_mem hx
  rw [← List.getD_eq_getElem _ 0 hi]
  rcases Nat.lt_or_ge i 16 with hlt | hge
  · rw [getD_expand_of_lt v c block hlt, toNat_blockWord]
    exact beNat_wordBytes_lt v c _
  · rw [getD_expand_of_le v c block hge (by rwa [length_expand] at hi)]
    exact sumW_lt (v.wordBits_le c) _

end

/-! The command EXPAND (R138). -/

section

variable {s : State}

/-- The current block is the one that is stored below PADLEN (R57, R130). -/
theorem currentBlock_eq {block : List Byte} (hlen : block.length = s.cfg.blockBytes)
    (hstored : ∀ k, k < s.cfg.blockBytes → s.blkidx.toNat * s.cfg.blockBytes + k < s.padlen.toNat ∧
      Claims.padAt s (s.blkidx.toNat * s.cfg.blockBytes + k) = block[k]?) : s.currentBlock = block := by
  refine List.ext_getElem ((length_currentBlock s).trans hlen.symm) fun k _ hk => ?_
  obtain ⟨hlt, hcell⟩ := hstored k (hlen ▸ hk)
  rw [List.getElem?_eq_getElem hk] at hcell
  simpa [State.currentBlock] using padCell_of_stored hlt hcell

/-- W[i] after EXPAND: a word of the schedule, then 0 (R23). -/
theorem scheduleRegisters_expand (v : Variant) (c : Constants) (block : List Byte) (i : Fin 80) :
    (scheduleRegisters (expand (v.cfg c) block))[i] =
      if i.val < (v.cfg c).rounds then (expand (v.cfg c) block).getD i.val 0 else 0 := by
  have hreg : (scheduleRegisters (expand (v.cfg c) block))[i] = (expand (v.cfg c) block).getD i.val 0 := by
    simp [scheduleRegisters]
  split
  · exact hreg
  · rw [hreg, List.getD_eq_default _ _ (by rw [length_expand]; omega)]

theorem exec_expand_of_expandSchedule (hp : s.phase = .expandSchedule) : exec .expand s = expandBody s :=
  gated_of_legal (by simp [hp]) (by simp [State.legal, hp])

end

end Sys2Proof.Machine

namespace Sys2Proof.Proofs

open Sys2Proof.Machine

/-- Settles O27: the phase check, then EXPAND's body, whose block is the one stored in PADBUF. -/
theorem expandWritesSchedule : Obligations.ExpandWritesSchedule := by
  intro s
  refine ⟨gated_of_error, fun he hp => gated_of_not_legal he (by simpa [State.legal] using hp), fun hp =>
    ⟨_, exec_expand_of_expandSchedule hp, rfl, fun block hlen hstored i => ?_⟩⟩
  rw [← currentBlock_eq hlen hstored]
  exact scheduleRegisters_expand s.variant s.constants s.currentBlock i

/-- Settles O47: a word below index 16 is a word of the block, and each further word was added by the recurrence. -/
theorem scheduleRecurrence : Obligations.ScheduleRecurrence := by
  refine fun v c block _ => ⟨length_expand v c block, fun x hx => expand_lt v c block hx, fun i hi => ?_,
    fun i hlo hhi => ?_⟩
  · rw [getD_expand_of_lt v c block hi, toNat_blockWord]
  · rw [getD_expand_of_le v c block hlo hhi, toNat_sumW (v.wordBits_le c)]
    simp [Nat.add_assoc]

end Sys2Proof.Proofs

namespace Sys2Proof.Machine

/-! The round function (R140). -/

section

variable (v : Variant) (c : Constants) (wv : Vector Word 8) (wi ki : Word)

theorem toNat_temp1 : (temp1 (v.cfg c) wv wi ki).toNat =
    (wv[7].toNat + (bigSigma1 (v.cfg c) wv[4]).toNat + (ch (v.cfg c).wordBits wv[4] wv[5] wv[6]).toNat +
      ki.toNat + wi.toNat) % 2 ^ (v.cfg c).wordBits := by
  rw [temp1, toNat_sumW (v.wordBits_le c)]
  simp [Nat.add_assoc]

theorem toNat_temp2 : (temp2 (v.cfg c) wv).toNat =
    ((bigSigma0 (v.cfg c) wv[0]).toNat + (maj wv[0] wv[1] wv[2]).toNat) % 2 ^ (v.cfg c).wordBits :=
  toNat_addW (v.wordBits_le c) ..

theorem compressRound_a :
    (compressRound (v.cfg c) wv wi ki)[0] =
      addW (v.cfg c).wordBits (temp1 (v.cfg c) wv wi ki) (temp2 (v.cfg c) wv) := rfl

theorem compressRound_e :
    (compressRound (v.cfg c) wv wi ki)[4] = addW (v.cfg c).wordBits wv[3] (temp1 (v.cfg c) wv wi ki) := rfl

end

/-! The rounds of a block (R142 to R144). -/

section

variable {s : State}

/-- ROUND before the last round has run (R144). -/
theorem exec_round_of_lt (hp : s.phase = .compress) (ht : s.t.toNat < s.cfg.rounds) :
    exec .round s = .next (roundStep s) := by
  have hl : s.legal .round = true := by simp [State.legal, hp, ht.ne]
  exact (gated_of_legal (by simp [hp]) hl).trans (if_neg ht.not_gt)

/-- T can count the round (R28). -/
theorem toNat_t_roundStep (ht : s.t.toNat < s.cfg.rounds) : (roundStep s).t.toNat = s.t.toNat + 1 := by
  have hmax : s.cfg.rounds < 2 ^ 7 := Variant.rounds_lt ..
  rw [roundStep_t, BitVec.toNat_add]
  exact Nat.mod_eq_of_lt (show s.t.toNat + 1 < 2 ^ 7 by omega)

/-- W[i] is word `i` of the schedule (R23). -/
theorem getD_schedule (s : State) (i : Fin 80) : s.schedule.getD i.val 0 = s.w[i] := by
  simp [State.schedule]

/-- A round and the rounds that remain after it are the rounds that remain before it (R143, R146). -/
theorem finishRounds_roundStep (ht : s.t.toNat < s.cfg.rounds) : finishRounds (roundStep s) = finishRounds s := by
  have hone : s.cfg.rounds - s.t.toNat = s.cfg.rounds - (s.t.toNat + 1) + 1 := by omega
  have hwv : (finishRounds (roundStep s)).wv = (finishRounds s).wv := by
    rw [finishRounds_wv, finishRounds_wv, toNat_t_roundStep ht, hone]
    rfl
  exact congrArg (fun wv => { finishRounds s with wv := wv }) hwv

/-- With every round run, none remains (R146). -/
theorem finishRounds_of_eq (ht : s.t.toNat = s.cfg.rounds) : finishRounds s = s := by
  have ht' : BitVec.ofNat 7 s.cfg.rounds = s.t := by rw [← ht, BitVec.ofNat_toNat, BitVec.setWidth_eq]
  rw [finishRounds, ht, Nat.sub_self, ht', runRounds]

end

/-- The rounds read the words of a schedule only. -/
theorem runRounds_congr (cfg : VariantConfig) {ws ws' : List Word} (h : ∀ i, ws.getD i 0 = ws'.getD i 0) (n : Nat) :
    ∀ (i : Nat) (wv : Vector Word 8), runRounds cfg ws n i wv = runRounds cfg ws' n i wv := by
  induction n with
  | zero => exact fun _ _ => rfl
  | succ n ih =>
    intro i wv
    rw [runRounds, runRounds, h, ih]

/-- The registers hold a schedule of up to 80 words, and 0 after it as the schedule's default is (R23, R138). -/
theorem getD_scheduleRegisters {ws : List Word} (h : ws.length ≤ 80) (i : Nat) :
    (scheduleRegisters ws).toList.getD i 0 = ws.getD i 0 := by
  by_cases hi : i < 80
  · simp [scheduleRegisters, hi]
  · rw [List.getD_eq_default _ _ (by rw [Vector.length_toList]; omega), List.getD_eq_default _ _ (by omega)]

/-! The fold (R142, R145). -/

section

variable {s t : State}

theorem exec_fold_of_rounds (hp : s.phase = .compress) (ht : s.t.toNat = s.cfg.rounds) : exec .fold s = foldBody s :=
  gated_of_legal (by simp [hp]) (by simp [State.legal, hp, ht])

theorem exec_compress_of_compress (hp : s.phase = .compress) : exec .compress s = compressBody s :=
  gated_of_legal (by simp [hp]) (by simp [State.legal, hp])

theorem foldBody_of_further_block (h : s.blkidx.toNat + 1 < s.nblk.toNat) :
    foldBody s = .next { mergeBlock s with phase := .expandSchedule } :=
  if_pos h

theorem foldBody_of_last_block (h : s.blkidx.toNat + 1 = s.nblk.toNat) : foldBody s = .next (finalize (mergeBlock s)) :=
  if_neg h.not_lt

theorem toNat_foldWords (v : Variant) (c : Constants) (state wv : Vector Word 8) (j : Fin 8) :
    (foldWords (v.cfg c) state wv)[j].toNat = (state[j].toNat + wv[j].toNat) % 2 ^ (v.cfg c).wordBits := by
  simp [foldWords, toNat_addW (v.wordBits_le c)]

theorem toNat_mergeBlock_h (s : State) (j : Fin 8) :
    (mergeBlock s).h[j].toNat = (s.h[j].toNat + s.wv[j].toNat) % 2 ^ s.cfg.wordBits :=
  toNat_foldWords ..

/-- A block number below NBLK does not wrap (R29, R116). -/
theorem toNat_mergeBlock_blkidx (h : s.blkidx.toNat < s.nblk.toNat) :
    (mergeBlock s).blkidx.toNat = s.blkidx.toNat + 1 := by
  have hmax : s.nblk.toNat < 2 ^ 64 := s.nblk.isLt
  rw [mergeBlock_blkidx, BitVec.toNat_add]
  exact Nat.mod_eq_of_lt (show s.blkidx.toNat + 1 < 2 ^ 64 by omega)

/-- In either case FOLD's body completes, with the folded words in H and T as it was. -/
theorem exists_foldBody_eq_next (s : State) :
    ∃ t, foldBody s = .next t ∧ t.h = foldWords s.cfg s.h s.wv ∧ t.t = s.t := by
  obtain ⟨_, hx⟩ | ⟨_, hx⟩ := foldBody_cases s
  · exact ⟨_, hx, rfl, rfl⟩
  · exact ⟨_, hx, rfl, rfl⟩

end

/-! Commands in sequence: the rounds of a block one by one (R146, R147). -/

section

variable {s t : State} {i : Instr}

theorem runCommands_cons (h : exec i s = .next t) (rest : List Instr) :
    runCommands (i :: rest) s = runCommands rest t := by
  rw [runCommands, h]

theorem runCommands_singleton (i : Instr) (s : State) : runCommands [i] s = exec i s := by
  rw [runCommands]
  cases exec i s <;> rfl

/-- ROUND repeated: T counts the rounds, and what the remaining rounds will give does not change. -/
theorem runCommands_rounds (n : Nat) : ∀ {s : State}, s.phase = .compress → s.t.toNat + n ≤ s.cfg.rounds →
    ∃ u, (∀ rest, runCommands (List.replicate n .round ++ rest) s = runCommands rest u) ∧
      u.phase = .compress ∧ u.cfg = s.cfg ∧ u.t.toNat = s.t.toNat + n ∧ finishRounds u = finishRounds s := by
  induction n with
  | zero => exact fun {s} hp _ => ⟨s, fun _ => rfl, hp, rfl, rfl, rfl⟩
  | succ n ih =>
    intro s hp hn
    have ht : s.t.toNat < s.cfg.rounds := by omega
    have hcount := toNat_t_roundStep ht
    obtain ⟨u, hrun, hpu, hcfg, htu, hfin⟩ := ih (s := roundStep s) hp (by rw [roundStep_cfg]; omega)
    exact ⟨u, fun rest => (runCommands_cons (exec_round_of_lt hp ht) _).trans (hrun rest), hpu, hcfg, by omega,
      hfin.trans (finishRounds_roundStep ht)⟩

/-- COMPRESS after some of the remaining rounds does what it does before them. -/
theorem runCommands_rounds_compress {n : Nat} (hp : s.phase = .compress) (hn : s.t.toNat + n ≤ s.cfg.rounds) :
    runCommands (List.replicate n .round ++ [.compress]) s = compressBody s := by
  obtain ⟨u, hrun, hpu, _, _, hfin⟩ := runCommands_rounds n hp hn
  rw [hrun, runCommands_singleton, exec_compress_of_compress hpu, compressBody, hfin, compressBody]

/-- The remaining rounds and FOLD do what COMPRESS does (R146). -/
theorem runCommands_rounds_fold {n : Nat} (hp : s.phase = .compress) (hn : s.t.toNat + n = s.cfg.rounds) :
    runCommands (List.replicate n .round ++ [.fold]) s = compressBody s := by
  obtain ⟨u, hrun, hpu, hcfg, htu, hfin⟩ := runCommands_rounds n hp hn.le
  have hall : u.t.toNat = u.cfg.rounds := by rw [htu, hn, hcfg]
  rw [hrun, runCommands_singleton, exec_fold_of_rounds hpu hall, compressBody, ← hfin, finishRounds_of_eq hall]

/-- The state that EXPAND leaves (R138). -/
def afterExpand (s : State) : State :=
  { s with w := scheduleRegisters (expand s.cfg s.currentBlock), wv := s.h, t := 0, phase := .compress }

theorem runCommands_expand (hp : s.phase = .expandSchedule) (rest : List Instr) :
    runCommands (.expand :: rest) s = runCommands rest (afterExpand s) :=
  runCommands_cons (exec_expand_of_expandSchedule hp) rest

/-- From the state that EXPAND leaves, every round and the fold are `compress_block` (R142). -/
theorem foldWords_finishRounds_afterExpand (s : State) :
    foldWords s.cfg s.h (finishRounds (afterExpand s)).wv = compressBlock s.cfg s.currentBlock s.h := by
  have hlen : (expand s.cfg s.currentBlock).length ≤ 80 := by
    rw [State.cfg, length_expand]
    cases s.variant <;> simp
  exact congrArg (foldWords s.cfg s.h) (runRounds_congr s.cfg (getD_scheduleRegisters hlen) s.cfg.rounds 0 s.h)

end

end Sys2Proof.Machine

namespace Sys2Proof.Proofs

open Sys2Proof.Machine

/-- Settles O46: reducing temp1 and temp2 before the last sum does not change it. -/
theorem roundFunction : Obligations.RoundFunction := by
  refine fun v c wv wi ki => ⟨?_, ?_, rfl, rfl, rfl, rfl, rfl, rfl⟩
  · rw [compressRound_a, toNat_addW (v.wordBits_le c), toNat_temp1, toNat_temp2, ← Nat.add_mod]
  · rw [compressRound_e, toNat_addW (v.wordBits_le c), toNat_temp1, Nat.add_mod_mod]

/-- Settles O28: the phase check, then one round on the registers. -/
theorem roundRunsOneRound : Obligations.RoundRunsOneRound := by
  refine fun s => ⟨gated_of_error, fun he hp => gated_of_not_legal he (by simp [State.legal, hp]),
    fun hp ht => gated_of_not_legal (by simp [hp]) (by simp [State.legal, ht]), fun i hp hi ht =>
    ⟨_, exec_round_of_lt hp ht, rfl, toNat_t_roundStep ht, ?_⟩⟩
  rw [roundStep_wv, hi, getD_schedule]
  rfl

/-- Settles O30: the phase check, then the fold, with a further block or the entry into FINALIZE. -/
theorem foldMergesTheBlock : Obligations.FoldMergesTheBlock := by
  refine fun s => ⟨gated_of_error, fun he hp => gated_of_not_legal he (by simp [State.legal, hp]),
    fun hp ht => gated_of_not_legal (by simp [hp]) (by simp [State.legal, ht]), fun hp ht hlt => ?_⟩
  rw [exec_fold_of_rounds hp ht]
  obtain hlast | hmore : s.blkidx.toNat + 1 = s.nblk.toNat ∨ s.blkidx.toNat + 1 < s.nblk.toNat := by omega
  · exact ⟨_, foldBody_of_last_block hlast, toNat_mergeBlock_h s, toNat_mergeBlock_blkidx hlt,
      fun hmore => absurd hlast hmore.ne, fun _ => entersFinalize_finalize (u := mergeBlock s) rfl⟩
  · exact ⟨_, foldBody_of_further_block hmore, toNat_mergeBlock_h s, toNat_mergeBlock_blkidx hlt,
      fun _ => rfl, fun hlast => absurd hlast hmore.ne⟩

/-- Settles O31: the remaining rounds and FOLD run COMPRESS's body, which completes. -/
theorem compressIsRemainingRoundsThenFold : Obligations.CompressIsRemainingRoundsThenFold := by
  refine fun s => ⟨gated_of_error, fun he hp => gated_of_not_legal he (by simp [State.legal, hp]), fun hp ht => ?_⟩
  obtain ⟨t, hbody, _, htt⟩ := exists_foldBody_eq_next (finishRounds s)
  refine ⟨t, (exec_compress_of_compress hp).trans hbody,
    (runCommands_rounds_fold hp (Nat.add_sub_of_le ht)).trans hbody, ?_⟩
  rw [htt, finishRounds_t, toNat_rounds]

/-- Settles O32: each way of stepping the block runs COMPRESS's body on the state that EXPAND leaves. -/
theorem steppedBlockIsCompressBlock : Obligations.SteppedBlockIsCompressBlock := by
  intro s n hp hn
  obtain ⟨t, hbody, hh, _⟩ := exists_foldBody_eq_next (finishRounds (afterExpand s))
  have hcompress := runCommands_rounds_compress (s := afterExpand s) rfl ((Nat.zero_add n).trans_le hn)
  have hfold := runCommands_rounds_fold (s := afterExpand s) rfl (Nat.zero_add s.cfg.rounds)
  refine ⟨t, ?_, ?_, hh.trans (foldWords_finishRounds_afterExpand s)⟩
  · exact (runCommands_expand hp _).trans (hcompress.trans hbody)
  · exact (runCommands_expand hp _).trans (hfold.trans hbody)

end Sys2Proof.Proofs

namespace Sys2Proof.Machine

open Sys2Proof.Claims

/-! The slices of a byte stream and of its bits (R88, R128, R130). -/

/-- The first slice, and the slices of what follows it. -/
theorem slices_succ_left {α : Type} (b n : Nat) (s : List α) :
    slices b (n + 1) s = s.take b :: slices b n (s.drop b) := by
  simp [slices, List.range_succ_eq_map, List.drop_drop, Nat.succ_mul, Nat.add_comm]

theorem byteOfBits_byteBits (b : Byte) : byteOfBits (byteBits b) = b :=
  (congrArg (BitVec.ofNat 8) (bitsNat_byteBits b)).trans (BitVec.ofNat_toNat ..)

theorem bytesOfBits_eq_slices (n : Nat) (bits : List Bool) : bytesOfBits n bits = (slices 8 n bits).map byteOfBits := by
  simp [bytesOfBits, slices, Nat.mul_comm]

/-- The bytes of the bits of a byte string are the string (R61, R88). -/
theorem bytesOfBits_bitsMsbFirst {n : Nat} {l : List Byte} (h : l.length = n) : bytesOfBits n (bitsMsbFirst l) = l := by
  subst h
  rw [bytesOfBits_eq_slices]
  induction l with
  | nil => rfl
  | cons b rest ih =>
    have hbits : bitsMsbFirst (b :: rest) = byteBits b ++ bitsMsbFirst rest := rfl
    rw [hbits, List.length_cons, slices_succ_left, List.take_left' (length_byteBits b),
      List.drop_left' (length_byteBits b), List.map_cons, byteOfBits_byteBits, ih]

/-- The slices of the bits of a stream, read as bytes, are the slices of the stream (R130). -/
theorem map_bytesOfBits_slices (b n : Nat) : ∀ p : List Byte, p.length = n * b →
    (slices (8 * b) n (bitsMsbFirst p)).map (bytesOfBits b) = slices b n p := by
  induction n with
  | zero => exact fun _ _ => rfl
  | succ n ih =>
    intro p hp
    rw [Nat.succ_mul] at hp
    have hhead : (p.take b).length = b := List.length_take_of_le (by omega)
    have hbits : (bitsMsbFirst (p.take b)).length = 8 * b := by rw [length_bitsMsbFirst, hhead]
    have hsplit : bitsMsbFirst p = bitsMsbFirst (p.take b) ++ bitsMsbFirst (p.drop b) := by
      rw [← bitsMsbFirst_append, List.take_append_drop]
    rw [hsplit, slices_succ_left, List.take_left' hbits, List.drop_left' hbits, List.map_cons,
      bytesOfBits_bitsMsbFirst hhead, ih _ (by rw [List.length_drop]; omega), slices_succ_left]

/-! The function `hash` (R148). -/

section

variable (v : Variant) (c : Constants) {m d : List Byte}

theorem blockBits_pos : 0 < (v.cfg c).blockBits := by cases v <;> simp

/-- The blocks of a padded message (R130). -/
def messageBlocks (cfg : VariantConfig) (m : List Byte) : List (List Byte) :=
  slices cfg.blockBytes (blocksOf cfg m.length) (padBytes cfg m)

/-- The hash state after the last block of a message (R148). -/
def finalHash (cfg : VariantConfig) (m : List Byte) : Vector Word 8 :=
  chainBlocks cfg (messageBlocks cfg m) cfg.initialState

/-- The blocks that `parse_blocks` slices from the padded bits, as bytes. -/
theorem hashMessage_of_fits (h : 8 * m.length < 2 ^ (v.cfg c).lengthFieldBits) :
    hashMessage (v.cfg c) m = .ok (formatDigest (v.cfg c) (finalHash (v.cfg c) m)) := by
  have hlen := length_padBytes_eq v c m
  have hbits : (bitsMsbFirst (padBytes (v.cfg c) m)).length = (v.cfg c).blockBits * blocksOf (v.cfg c) m.length := by
    rw [length_bitsMsbFirst, hlen, blockBits_eq, Nat.mul_assoc]
  have hcount : (bitsMsbFirst (padBytes (v.cfg c) m)).length / (v.cfg c).blockBits = blocksOf (v.cfg c) m.length := by
    rw [hbits, Nat.mul_div_cancel_left _ (blockBits_pos v c)]
  have hblocks := map_bytesOfBits_slices (v.cfg c).blockBytes (blocksOf (v.cfg c) m.length) (padBytes (v.cfg c) m)
    (by rw [hlen, Nat.mul_comm])
  rw [hashMessage, padBits_eq_padBytes v c h]
  simp only
  rw [parseBlocks_of_whole (by rw [hbits, Nat.mul_mod_right]), hcount]
  simp only
  rw [blockBits_eq, hblocks, finalHash, messageBlocks]

theorem hashMessage_of_tooLong {cfg : VariantConfig} (h : 2 ^ cfg.lengthFieldBits ≤ 8 * m.length) :
    hashMessage cfg m = .error .messageTooLong := by
  rw [hashMessage, padBits_of_tooLong h]

theorem length_of_hashMessage (h : hashMessage (v.cfg c) m = .ok d) : d.length = (v.cfg c).digestChars := by
  rcases Nat.lt_or_ge (8 * m.length) (2 ^ (v.cfg c).lengthFieldBits) with hfits | hlong
  · cases (hashMessage_of_fits v c hfits).symm.trans h
    exact length_formatDigest ..
  · cases (hashMessage_of_tooLong hlong).symm.trans h

end

/-! The rows of the legality table (R151, R152). -/

section

variable {s t : State} {i : Instr} {body : State → Res}

/-- The three ways of a checked command as one row of the table: a drop, the body, SequenceError. -/
theorem gated_row (h : gated i body s = .next t) :
    (s.phase = .error → t = s) ∧
    (s.phase ≠ .error → s.legal i = true → body s = .next t) ∧
    (s.phase ≠ .error → s.legal i = false → t = raiseError .sequenceError s) := by
  rcases gated_next h with ⟨he, rfl⟩ | ⟨he, hl, h⟩ | ⟨he, hl, rfl⟩
  · exact ⟨fun _ => rfl, fun hne => absurd he hne, fun hne => absurd he hne⟩
  · exact ⟨fun hp => absurd hp he, fun _ _ => h, fun _ hl' => absurd (hl.symm.trans hl') (by decide)⟩
  · exact ⟨fun hp => absurd hp he, fun _ hl' => absurd (hl.symm.trans hl') (by decide), fun _ _ => rfl⟩

/-- The phase after the fold of a block (R145). -/
theorem phase_of_foldBody (h : foldBody s = .next t) :
    t.phase = if s.blkidx.toNat + 1 < s.nblk.toNat then .expandSchedule else .finalize := by
  obtain ⟨hlt, rfl⟩ | ⟨hle, rfl⟩ := foldBody_next h
  · rw [if_pos hlt]
  · rw [if_neg hle.not_gt, finalize_phase]

end

/-! INIT and FORMAT (R157, R158). -/

section

variable {s : State} {v : Nat} {x : Variant}

theorem select_of_code (h : (v = 0 ∧ x = .narrow) ∨ (v = 1 ∧ x = .wide)) : select v = some x := by
  obtain ⟨rfl, rfl⟩ | ⟨rfl, rfl⟩ := h <;> rfl

theorem exists_select_of_lt (h : v < 2) : ∃ x, select v = some x :=
  Option.ne_none_iff_exists'.1 (mt (select_eq_none_iff v).1 (Nat.not_le_of_lt h))

theorem exec_init_of_select (h : select v = some x) : exec (.init v) s = .next (beginRun x s) := by
  rw [exec, execInit, initBody, h]

theorem exec_init_of_unsupported (h : 2 ≤ v) : exec (.init v) s = .next (raiseError .unsupportedVariant s) := by
  rw [exec, execInit, initBody, (select_eq_none_iff v).2 h]

/-- A write of 128 zero characters clears DIGEST and touches nothing beyond it (R43). -/
theorem digestCleared_of_writeDigest {t : State} (h : t.digest = s.writeDigest blankDigest) : DigestCleared s t := by
  unfold DigestCleared digestAt
  rw [h]
  refine ⟨fun k => read_writeDigest_blank s, fun k hk => ?_⟩
  rw [read_writeDigest, if_neg (by rw [length_blankDigest]; omega)]

theorem exec_format_of_run (he : s.phase ≠ .error) (hi : s.phase ≠ .idle) :
    exec .format s = .next (showDigest s.dvAfterFormat s) :=
  gated_of_legal he (by simp [State.legal, hi])

/-- A cell of DIGEST that shows the hash state holds its character (R153). -/
theorem read_digestImage (s : State) {k : Nat} (hk : k < s.cfg.digestChars) :
    Memory.read ByteSpace.digest.background (s.writeDigest s.digestImage) k = (formatDigest s.cfg s.h)[k]? := by
  have hcell := ((Memory.readBytes_eq_some_iff ..).1 (readBytes_digestImage s)).2 k hk
  rwa [Nat.zero_add] at hcell

theorem digestAt_finalize_of_lt (s : State) {k : Nat} (hk : k < s.cfg.digestChars) :
    digestAt (finalize s) k = (formatDigest s.cfg s.h)[k]? := by
  rw [digestAt, finalize_digest, read_digestImage s hk]

theorem digestAt_finalize_of_le (s : State) {k : Nat} (hd : s.cfg.digestChars ≤ k) (hk : k < 128) :
    digestAt (finalize s) k = some 0 := by
  rw [digestAt, finalize_digest, read_digestImage_tail s hd hk]

end

/-! One block of a run (R138, R146). -/

section

variable {s : State}

/-- What EXPAND and COMPRESS make of the registers for a block of the stream. -/
def takeBlock (s : State) (block : List Byte) : State :=
  { s with
    w := scheduleRegisters (expand s.cfg block)
    wv := runRounds s.cfg (expand s.cfg block) s.cfg.rounds 0 s.h
    t := BitVec.ofNat 7 s.cfg.rounds
    h := compressBlock s.cfg block s.h
    blkidx := s.blkidx + 1 }

/-- The rounds read the schedule registers, which hold the whole schedule of the block. -/
theorem wv_finishRounds_afterExpand (s : State) :
    (finishRounds (afterExpand s)).wv = (takeBlock s s.currentBlock).wv := by
  have hlen : (expand s.cfg s.currentBlock).length ≤ 80 := by
    rw [State.cfg, length_expand]
    cases s.variant <;> simp
  exact runRounds_congr s.cfg (getD_scheduleRegisters hlen) s.cfg.rounds 0 s.h

theorem mergeBlock_finishRounds_afterExpand (s : State) :
    mergeBlock (finishRounds (afterExpand s)) = { takeBlock s s.currentBlock with phase := .compress } :=
  congrArg (fun wv => { takeBlock s s.currentBlock with phase := .compress, wv := wv, h := foldWords s.cfg s.h wv })
    (wv_finishRounds_afterExpand s)

theorem compressBody_of_further_block (hp : s.phase = .expandSchedule) (h : s.blkidx.toNat + 1 < s.nblk.toNat) :
    compressBody (afterExpand s) = .next (takeBlock s s.currentBlock) := by
  have hphase : takeBlock s s.currentBlock = { takeBlock s s.currentBlock with phase := .expandSchedule } := by
    rw [← hp]
    rfl
  rw [compressBody, foldBody_of_further_block (s := finishRounds (afterExpand s)) h,
    mergeBlock_finishRounds_afterExpand, hphase]

theorem compressBody_of_last_block (h : s.blkidx.toNat + 1 = s.nblk.toNat) :
    compressBody (afterExpand s) = .next (finalize (takeBlock s s.currentBlock)) := by
  rw [compressBody, foldBody_of_last_block (s := finishRounds (afterExpand s)) h, mergeBlock_finishRounds_afterExpand]
  rfl

/-- A run of blocks keeps everything but H, WV, W, T and BLKIDX, and chains the blocks (R131). -/
theorem foldl_takeBlock (blocks : List (List Byte)) : ∀ s : State, ∃ wv w,
    blocks.foldl takeBlock s =
      { s with
        h := chainBlocks s.cfg blocks s.h, blkidx := s.blkidx + BitVec.ofNat 64 blocks.length
        t := if blocks = [] then s.t else BitVec.ofNat 7 s.cfg.rounds, wv := wv, w := w } := by
  induction blocks with
  | nil => exact fun s => ⟨s.wv, s.w, by simp [chainBlocks]⟩
  | cons block rest ih =>
    intro s
    obtain ⟨wv, w, hrest⟩ := ih (takeBlock s block)
    have hcount : s.blkidx + 1 + BitVec.ofNat 64 rest.length = s.blkidx + BitVec.ofNat 64 (rest.length + 1) := by
      rw [BitVec.ofNat_add, BitVec.add_assoc, BitVec.add_comm 1]
      rfl
    have ht : (if rest = [] then (takeBlock s block).t else BitVec.ofNat 7 s.cfg.rounds) = BitVec.ofNat 7 s.cfg.rounds :=
      ite_self _
    refine ⟨wv, w, ?_⟩
    rw [List.foldl_cons, hrest, List.length_cons, ← hcount, if_neg (List.cons_ne_nil block rest), ← ht]
    rfl

end

/-! The blocks of a run, one after another (R159, R161). -/

section

variable {s t : State} {n : Nat} {p : List Byte}

/-- The state has `n` blocks to take, `p` is what is left of the padded stream, and PADBUF holds it. -/
structure AwaitsBlocks (n : Nat) (p : List Byte) (s : State) : Prop where
  phase : s.phase = .expandSchedule
  count : s.blkidx.toNat + n = s.nblk.toNat
  length : p.length = n * s.cfg.blockBytes
  stored : ∀ a, a < p.length → s.blkidx.toNat * s.cfg.blockBytes + a < s.padlen.toNat ∧
    padAt s (s.blkidx.toNat * s.cfg.blockBytes + a) = p[a]?

theorem AwaitsBlocks.currentBlock_eq (h : AwaitsBlocks (n + 1) p s) : s.currentBlock = p.take s.cfg.blockBytes := by
  have hle : s.cfg.blockBytes ≤ p.length := by
    rw [h.length, Nat.succ_mul]
    exact Nat.le_add_left ..
  refine Machine.currentBlock_eq (List.length_take_of_le hle) fun k hk => ?_
  rw [List.getElem?_take_of_lt hk]
  exact h.stored k (by omega)

/-- After a block that is not the last the rest of the stream is in front. -/
theorem AwaitsBlocks.next (h : AwaitsBlocks (n + 1) p s) (block : List Byte) :
    AwaitsBlocks n (p.drop s.cfg.blockBytes) (takeBlock s block) := by
  have hcount := h.count
  have hblkidx : (takeBlock s block).blkidx.toNat = s.blkidx.toNat + 1 := toNat_mergeBlock_blkidx (by omega)
  refine ⟨h.phase, ?_, ?_, fun a ha => ?_⟩
  · rw [hblkidx]
    exact (Nat.add_right_comm ..).trans hcount
  · rw [List.length_drop, h.length, Nat.succ_mul, Nat.add_sub_cancel]
    rfl
  · rw [List.length_drop] at ha
    have hcell := h.stored (s.cfg.blockBytes + a) (by omega)
    rw [← Nat.add_assoc, ← Nat.succ_mul] at hcell
    rw [hblkidx, List.getElem?_drop]
    exact hcell

/-- `run n` takes `n` blocks one after another under a record, as HASH's loop and the two ways of stepping do. -/
structure TakesBlocks (cfg : VariantConfig) (run : Nat → State → Res) : Prop where
  done : ∀ s, run 0 s = .next s
  block : ∀ {n s t}, s.cfg = cfg → s.phase = .expandSchedule → compressBody (afterExpand s) = .next t →
    t.phase ≠ .error → run (n + 1) s = run n t

/-- Whatever takes the blocks of a stream reaches FINALIZE in one and the same state (R161). -/
theorem TakesBlocks.run_eq {cfg : VariantConfig} {run : Nat → State → Res} (hrun : TakesBlocks cfg run) (n : Nat) :
    ∀ {p : List Byte} {s : State}, s.cfg = cfg → AwaitsBlocks (n + 1) p s →
      run (n + 1) s = .next (finalize ((slices cfg.blockBytes (n + 1) p).foldl takeBlock s)) := by
  induction n with
  | zero =>
    intro p s hcfg h
    rw [hrun.block hcfg h.phase (compressBody_of_last_block h.count) (by simp), hrun.done, h.currentBlock_eq, hcfg]
    simp [slices]
  | succ n ih =>
    intro p s hcfg h
    have hcount := h.count
    have hnext := h.next (p.take s.cfg.blockBytes)
    have hbody := compressBody_of_further_block h.phase (by omega)
    rw [h.currentBlock_eq] at hbody
    rw [hrun.block hcfg h.phase hbody (by simp [hnext.phase]), ih (s := takeBlock s _) hcfg hnext,
      slices_succ_left _ (n + 1), hcfg, List.foldl_cons]

theorem takesBlocks_hashLoop (cfg : VariantConfig) : TakesBlocks cfg hashLoop where
  done := fun _ => rfl
  block := by
    intro n s t _ hp ht he
    have hblock : hashBlock s = .next t := by
      have hexpand : gated .expand expandBody s = .next (afterExpand s) := exec_expand_of_expandSchedule hp
      have hcompress : gated .compress compressBody (afterExpand s) = compressBody (afterExpand s) :=
        exec_compress_of_compress (s := afterExpand s) rfl
      rw [hashBlock, hexpand, andThen_of_ok (by simp [afterExpand]), hcompress, ht]
    rw [hashLoop, if_pos hp, hblock, andThen_of_ok he]

theorem runCommands_append (first rest : List Instr) : ∀ {s t : State}, runCommands first s = .next t →
    runCommands (first ++ rest) s = runCommands rest t := by
  induction first with
  | nil =>
    intro s t h
    cases h
    rfl
  | cons i first ih =>
    intro s t h
    rw [List.cons_append, runCommands]
    rw [runCommands] at h
    cases hi : exec i s with
    | next u =>
      rw [hi] at h
      exact ih h
    | fault f | refused r =>
      rw [hi] at h
      cases h

/-- Commands that run one block, repeated (R161). -/
theorem takesBlocks_runCommands {cfg : VariantConfig} {commands : List Instr}
    (h : ∀ {s}, s.cfg = cfg → s.phase = .expandSchedule → runCommands commands s = compressBody (afterExpand s)) :
    TakesBlocks cfg fun n => runCommands (List.replicate n commands).flatten where
  done := fun _ => rfl
  block := by
    intro n s t hcfg hp ht _
    rw [List.replicate_succ, List.flatten_cons]
    exact runCommands_append _ _ ((h hcfg hp).trans ht)

/-- A block stepped with COMPRESS. -/
theorem takesBlocks_compress (cfg : VariantConfig) :
    TakesBlocks cfg fun n => runCommands (List.replicate n [Instr.expand, .compress]).flatten :=
  takesBlocks_runCommands fun {s} _ hp =>
    (runCommands_expand hp _).trans (runCommands_rounds_compress (s := afterExpand s) (n := 0) rfl (Nat.zero_le _))

/-- A block stepped round by round. -/
theorem takesBlocks_rounds_fold (cfg : VariantConfig) : TakesBlocks cfg fun n =>
    runCommands (List.replicate n (Instr.expand :: (List.replicate cfg.rounds .round ++ [.fold]))).flatten :=
  takesBlocks_runCommands fun {s} hcfg hp =>
    (runCommands_expand hp _).trans (runCommands_rounds_fold (s := afterExpand s) rfl
      ((Nat.zero_add _).trans (congrArg VariantConfig.rounds hcfg.symm)))

end

/-! A whole run (R148, R159). -/

section

variable {s t : State} {v : Nat} {x : Variant} {m : List Byte}

/-- After INIT and PAD the stream is stored (R126, R157). -/
def padded (x : Variant) (m : List Byte) (s : State) : State :=
  { beginRun x s with
    padbuf := Memory.writeBytes ByteSpace.padbuf.background s.padbuf 0 (padBytes (x.cfg s.constants) m)
    padlen := BitVec.ofNat 64 (padBytes (x.cfg s.constants) m).length
    phase := .parse }

/-- After PARSE the blocks are counted (R132). -/
def parsed (x : Variant) (m : List Byte) (s : State) : State :=
  { setBlockCount (padded x m s) with phase := .expandSchedule }

/-- The state that a run of the message `m` ends in. -/
def hashed (x : Variant) (m : List Byte) (s : State) : State :=
  finalize ((messageBlocks (x.cfg s.constants) m).foldl takeBlock (parsed x m s))

section

variable (hm : s.holdsMessage (x.cfg s.constants) m)

include hm

theorem padBody_beginRun (c : Instr) : padBody c (beginRun x s) = .next (padded x m s) :=
  padBody_of_message (s := beginRun x s) hm

/-- The message that MSG holds is not too long (R119). -/
theorem fits_of_holdsMessage : 8 * m.length < 2 ^ (x.cfg s.constants).lengthFieldBits := by
  obtain ⟨hmsg, _, hfits⟩ := hm
  rwa [length_message hmsg]

theorem toNat_padlen_padded : (padded x m s).padlen.toNat = (padBytes (x.cfg s.constants) m).length := by
  obtain ⟨hmsg, hcap, _⟩ := hm
  exact (length_padBytes_message (s := beginRun x s) hcap hmsg).2

theorem blockCount_padded : (padded x m s).blockCount = blocksOf (x.cfg s.constants) m.length := by
  have hcfg : (padded x m s).cfg = x.cfg s.constants := rfl
  rw [State.blockCount, toNat_padlen_padded hm, hcfg, length_padBytes_eq, ← Nat.mul_assoc, ← blockBits_eq,
    Nat.mul_div_cancel_left _ (blockBits_pos x s.constants)]

theorem parseBody_padded : parseBody (padded x m s) = .next (parsed x m s) := by
  have hwhole : 8 * (padded x m s).padlen.toNat % (padded x m s).cfg.blockBits = 0 := by
    rw [toNat_padlen_padded hm]
    exact bits_mod_blockBits_eq_zero (s := padded x m s) (length_padBytes_mod x s.constants m)
  exact parseBody_of_blocks hwhole (by rw [blockCount_padded hm]; exact Nat.succ_ne_zero _)

theorem toNat_nblk_parsed : (parsed x m s).nblk.toNat = blocksOf (x.cfg s.constants) m.length :=
  (toNat_blockCount _).trans (blockCount_padded hm)

theorem awaitsBlocks_parsed :
    AwaitsBlocks (blocksOf (x.cfg s.constants) m.length) (padBytes (x.cfg s.constants) m) (parsed x m s) where
  phase := rfl
  count := (Nat.zero_add _).trans (toNat_nblk_parsed hm).symm
  length := (length_padBytes_eq x s.constants m).trans (Nat.mul_comm ..)
  stored := by
    intro a ha
    have hpadlen : (parsed x m s).padlen.toNat = (padBytes (x.cfg s.constants) m).length := toNat_padlen_padded hm
    have hblkidx : (parsed x m s).blkidx.toNat = 0 := rfl
    have hzero : (parsed x m s).blkidx.toNat * (parsed x m s).cfg.blockBytes + a = a := by
      rw [hblkidx, Nat.zero_mul, Nat.zero_add]
    rw [hzero, hpadlen]
    exact ⟨ha, Memory.read_writeBytes_zero _ s.padbuf ha⟩

theorem TakesBlocks.run_parsed {run : Nat → State → Res} (hrun : TakesBlocks (x.cfg s.constants) run) :
    run (blocksOf (x.cfg s.constants) m.length) (parsed x m s) = .next (hashed x m s) :=
  hrun.run_eq _ rfl (awaitsBlocks_parsed hm)

end

theorem exec_hash_of_unsupported (h : 2 ≤ v) : exec (.hash v) s = .next (raiseError .unsupportedVariant s) := by
  rw [exec, execHash, initBody, (select_eq_none_iff v).2 h]
  rfl

/-- HASH of a supported code goes on from INIT's state to PAD's body (R159). -/
theorem exec_hash_of_select (h : select v = some x) :
    exec (.hash v) s = andThen (andThen (padBody (.hash v) (beginRun x s)) (gated .parse parseBody))
      fun u => hashLoop u.nblk.toNat u := by
  have hpad : gated .pad (padBody (.hash v)) (beginRun x s) = padBody (.hash v) (beginRun x s) :=
    gated_of_legal (by simp) (by simp [State.legal])
  rw [exec, execHash, initBody, h]
  simp only
  rw [andThen_of_ok (by simp), hashRun, hpad]

theorem exec_hash_of_tooLong (h : select v = some x)
    (hlong : 2 ^ (x.cfg s.constants).lengthFieldBits ≤ 8 * s.msglen.toNat) :
    exec (.hash v) s = .next (raiseError .messageTooLong (beginRun x s)) := by
  rw [exec_hash_of_select h, padBody_of_tooLong (s := beginRun x s) hlong, andThen_of_error rfl, andThen_of_error rfl]

theorem exec_hash_of_padFault {f : Fault} (h : select v = some x) (hf : padBody (.hash v) (beginRun x s) = .fault f) :
    exec (.hash v) s = .fault f := by
  rw [exec_hash_of_select h, hf, andThen_fault, andThen_fault]

theorem exec_hash_of_message (h : select v = some x) (hm : s.holdsMessage (x.cfg s.constants) m) :
    exec (.hash v) s = .next (hashed x m s) := by
  have hparse : gated .parse parseBody (padded x m s) = .next (parsed x m s) :=
    (exec_parse_of_parse (s := padded x m s) rfl).trans (parseBody_padded hm)
  rw [exec_hash_of_select h, padBody_beginRun hm, andThen_of_ok (by simp [padded]), hparse,
    andThen_of_ok (by simp [parsed]), toNat_nblk_parsed hm]
  exact (takesBlocks_hashLoop _).run_parsed hm

/-- The two ways in which HASH of a supported code completes (R159). -/
theorem exec_hash_next (h : select v = some x) (ht : exec (.hash v) s = .next t) :
    (2 ^ (x.cfg s.constants).lengthFieldBits ≤ 8 * s.msglen.toNat ∧ t = raiseError .messageTooLong (beginRun x s)) ∨
    ∃ m, s.holdsMessage (x.cfg s.constants) m ∧ t = hashed x m s := by
  rcases Nat.lt_or_ge (8 * s.msglen.toNat) (2 ^ (x.cfg s.constants).lengthFieldBits) with hfits | hlong
  · rcases Nat.lt_or_ge s.msgCap.val s.msglen.toNat with hcap | hcap
    · cases (exec_hash_of_padFault h (padBody_of_overCapacity (s := beginRun x s) hfits hcap)).symm.trans ht
    · cases hm : s.message with
      | none => cases (exec_hash_of_padFault h (padBody_of_unwritten (s := beginRun x s) hfits hcap hm)).symm.trans ht
      | some m =>
        have hholds : s.holdsMessage (x.cfg s.constants) m := ⟨hm, hcap, hfits⟩
        cases (exec_hash_of_message h hholds).symm.trans ht
        exact .inr ⟨m, hholds, rfl⟩
  · cases (exec_hash_of_tooLong h hlong).symm.trans ht
    exact .inl ⟨hlong, rfl⟩

/-- INIT, PAD and PARSE as commands reach the state in which HASH begins its loop (R161). -/
theorem runCommands_init_pad_parse (h : select v = some x) (hm : s.holdsMessage (x.cfg s.constants) m) :
    runCommands [.init v, .pad, .parse] s = .next (parsed x m s) := by
  have hpad : exec .pad (beginRun x s) = .next (padded x m s) :=
    (exec_pad_of_preprocess (s := beginRun x s) rfl).trans (padBody_beginRun hm .pad)
  have hparse : exec .parse (padded x m s) = .next (parsed x m s) :=
    (exec_parse_of_parse (s := padded x m s) rfl).trans (parseBody_padded hm)
  rw [runCommands_cons (exec_init_of_select h), runCommands_cons hpad, runCommands_cons hparse, runCommands]

/-- The fields of the state that a run ends in, in terms of the state that the run starts from. -/
theorem hashed_eq (hm : s.holdsMessage (x.cfg s.constants) m) : ∃ wv w,
    hashed x m s = finalize { parsed x m s with
      h := finalHash (x.cfg s.constants) m, blkidx := (parsed x m s).nblk
      t := BitVec.ofNat 7 (x.cfg s.constants).rounds, wv := wv, w := w } := by
  obtain ⟨wv, w, heq⟩ := foldl_takeBlock (messageBlocks (x.cfg s.constants) m) (parsed x m s)
  have hne : messageBlocks (x.cfg s.constants) m ≠ [] := List.ne_nil_of_length_eq_add_one length_slices
  have hblkidx : (parsed x m s).blkidx + BitVec.ofNat 64 (messageBlocks (x.cfg s.constants) m).length =
      (parsed x m s).nblk := by
    rw [messageBlocks, length_slices, ← blockCount_padded hm]
    exact BitVec.zero_add _
  refine ⟨wv, w, ?_⟩
  rw [hashed, heq, if_neg hne, hblkidx]
  rfl

/-- DIGEST shows the digest of the function rule (R148). -/
theorem digestAt_hashed (hm : s.holdsMessage (x.cfg s.constants) m) {k : Nat} :
    (k < (x.cfg s.constants).digestChars →
      digestAt (hashed x m s) k = (formatDigest (x.cfg s.constants) (finalHash (x.cfg s.constants) m))[k]?) ∧
    ((x.cfg s.constants).digestChars ≤ k → k < 128 → digestAt (hashed x m s) k = some 0) := by
  obtain ⟨wv, w, heq⟩ := hashed_eq hm
  rw [heq]
  exact ⟨fun hk => digestAt_finalize_of_lt _ hk, fun hd hk => digestAt_finalize_of_le _ hd hk⟩

end

/-! Two runs of one message (R163). -/

section

variable {s₁ s₂ : State} {x : Variant} {m : List Byte}

/-- The registers of `s`, with everything else as in `u`: what a run after PARSE does not look at. -/
def withRegisters (u s : State) : State :=
  { u with
    phase := s.phase, variant := s.variant, err := s.err, dv := s.dv, t := s.t, blkidx := s.blkidx, nblk := s.nblk
    padlen := s.padlen, dlen := s.dlen, h := s.h, wv := s.wv, w := s.w, constants := s.constants }

/-- INIT, PAD and PARSE set every register to a value that the parameters and the message determine. -/
theorem parsed_eq_withRegisters (hc : s₁.constants = s₂.constants) :
    parsed x m s₂ = withRegisters (parsed x m s₂) (parsed x m s₁) := by
  simp only [withRegisters, parsed, setBlockCount, State.blockCount, State.cfg, padded, beginRun, hc]

theorem foldl_takeBlock_withRegisters (u s : State) (blocks : List (List Byte)) :
    blocks.foldl takeBlock (withRegisters u s) = withRegisters u (blocks.foldl takeBlock s) :=
  List.foldl_hom _ fun _ _ => rfl

/-- The two runs end with one set of registers (R163). -/
theorem hashed_eq_withRegisters (hc : s₁.constants = s₂.constants) :
    hashed x m s₂ = withRegisters (hashed x m s₂) (hashed x m s₁) := by
  have hblocks : hashed x m s₂ = finalize (withRegisters (parsed x m s₂)
      ((messageBlocks (x.cfg s₁.constants) m).foldl takeBlock (parsed x m s₁))) := by
    rw [hashed, ← hc, ← foldl_takeBlock_withRegisters, ← parsed_eq_withRegisters hc]
  rw [hblocks]
  rfl

/-- PADBUF holds the stream of the message below PADLEN (R126). -/
theorem padAt_hashed (hm : s₁.holdsMessage (x.cfg s₁.constants) m) {a : Nat} (ha : a < (hashed x m s₁).padlen.toNat) :
    padAt (hashed x m s₁) a = (padBytes (x.cfg s₁.constants) m)[a]? := by
  obtain ⟨wv, w, heq⟩ := hashed_eq hm
  rw [heq] at ha ⊢
  have ha : a < (padded x m s₁).padlen.toNat := ha
  rw [toNat_padlen_padded hm] at ha
  exact Memory.read_writeBytes_zero _ _ ha

theorem message_congr (hlen : s₁.msglen = s₂.msglen)
    (hcells : ∀ a, a < s₁.msglen.toNat → msgAt s₁ a = msgAt s₂ a) (hm : s₁.message = some m) : s₂.message = some m := by
  obtain ⟨hn, hread⟩ := (Memory.readBytes_eq_some_iff ..).1 hm
  refine (Memory.readBytes_eq_some_iff ..).2 ⟨hlen ▸ hn, fun k hk => ?_⟩
  have hk : k < s₁.msglen.toNat := hlen ▸ hk
  rw [← hread k hk, Nat.zero_add]
  exact (hcells k hk).symm

end

end Sys2Proof.Machine

namespace Sys2Proof.Proofs

open Sys2Proof.Machine Sys2Proof.Claims

/-- Settles O34: HASH completes in the state `hashed`, whose fields `hashed_eq` gives. -/
theorem hashComputesTheDigest : Obligations.HashComputesTheDigest := by
  intro s v x m hv hm
  have hd := hashMessage_of_fits x s.constants (fits_of_holdsMessage hm)
  have hpadlen := toNat_padlen_padded hm
  refine ⟨hashed x m s, _, exec_hash_of_message (select_of_code hv) hm, hd, length_of_hashMessage x s.constants hd,
    fun k => (digestAt_hashed hm).1, fun k => (digestAt_hashed hm).2, ?_⟩
  obtain ⟨wv, w, heq⟩ := hashed_eq hm
  rw [heq]
  refine ⟨rfl, rfl, rfl, rfl, toNat_digestChars _, toNat_rounds (parsed x m s), toNat_nblk_parsed hm, rfl,
    hpadlen.trans (length_padBytes_eq ..), fun a ha => ?_, rfl, rfl, rfl, rfl, rfl, rfl, rfl, rfl⟩
  exact Memory.read_writeBytes_outside _ _ _ (.inr (by rw [Nat.zero_add, ← hpadlen]; exact ha))

/-- Settles O36: HASH's loop and the two ways of stepping take the same blocks. -/
theorem steppedRunsEqualHash : Obligations.SteppedRunsEqualHash := by
  intro s v x m hv hm
  have hsel := select_of_code hv
  have hstart := runCommands_init_pad_parse hsel hm
  refine ⟨hashed x m s, _, exec_hash_of_message hsel hm, ?_, ?_, rfl,
    hashMessage_of_fits x s.constants (fits_of_holdsMessage hm), fun k => (digestAt_hashed hm).1⟩
  · exact (runCommands_append _ _ hstart).trans ((takesBlocks_compress _).run_parsed hm)
  · exact (runCommands_append _ _ hstart).trans ((takesBlocks_rounds_fold _).run_parsed hm)

/-- Settles O39: what the second run starts from differs in nothing that INIT, PAD, PARSE and the blocks look at. -/
theorem noHiddenStateAcrossRuns : Obligations.NoHiddenStateAcrossRuns := by
  intro v s₁ s₂ t₁ hv hlen hcap hc hcells ht
  obtain ⟨x, hsel⟩ := exists_select_of_lt hv
  rcases exec_hash_next hsel ht with ⟨hlong, rfl⟩ | ⟨m, hm, rfl⟩
  · rw [hlen, hc] at hlong
    refine ⟨_, exec_hash_of_tooLong hsel hlong, rfl, rfl, rfl, rfl, rfl, rfl, rfl, rfl, rfl, ?_, rfl, rfl,
      fun k hk => ?_, fun a ha => absurd ha (Nat.not_lt_zero a)⟩
    · rw [raiseError_h, beginRun_h, raiseError_h, beginRun_h, hc]
    · rw [digestAt, digestAt, raiseError_digest, raiseError_digest, read_writeDigest_blank _ hk,
        read_writeDigest_blank _ hk]
  · have hm₂ : s₂.holdsMessage (x.cfg s₂.constants) m := by
      obtain ⟨hmsg, hroom, hfits⟩ := hm
      exact ⟨message_congr hlen hcells hmsg, hlen ▸ hcap ▸ hroom, hlen ▸ hc ▸ hfits⟩
    have hreg {α : Type} (f : State → α) : f (hashed x m s₂) = f (withRegisters (hashed x m s₂) (hashed x m s₁)) :=
      congrArg f (hashed_eq_withRegisters hc)
    have hpadlen : (hashed x m s₂).padlen = (hashed x m s₁).padlen := hreg State.padlen
    refine ⟨hashed x m s₂, exec_hash_of_message hsel hm₂, hreg State.phase, hreg State.variant, hreg State.err,
      hreg State.dv, hreg State.t, hreg State.blkidx, hreg State.nblk, hpadlen, hreg State.dlen, hreg State.h,
      hreg State.wv, hreg State.w, fun k hk => ?_, fun a ha => ?_⟩
    · rcases Nat.lt_or_ge k (x.cfg s₁.constants).digestChars with hd | hd
      · rw [(digestAt_hashed hm).1 hd, (digestAt_hashed hm₂).1 (hc ▸ hd), hc]
      · rw [(digestAt_hashed hm).2 hd hk, (digestAt_hashed hm₂).2 (hc ▸ hd) hk]
    · rw [padAt_hashed hm ha, padAt_hashed hm₂ (by rwa [hpadlen]), hc]

/-- Settles O35: the three ways in which PAD's body ends HASH, and the code without a record. -/
theorem hashErrorsAndFaults : Obligations.HashErrorsAndFaults := by
  refine ⟨fun s v hv => exec_hash_of_unsupported (by omega), fun s v x hv => ?_⟩
  have hsel := select_of_code hv
  refine ⟨exec_hash_of_tooLong hsel, fun hfits hcap => ?_, fun hfits hcap hun => ?_⟩
  · exact exec_hash_of_padFault hsel (padBody_of_overCapacity (s := beginRun x s) hfits hcap)
  · exact exec_hash_of_padFault hsel
      (padBody_of_unwritten (s := beginRun x s) hfits hcap (message_eq_none_iff.2 hun))

/-- Settles O20: the drop and the SequenceError are the phase check's, the other entries the body's. -/
theorem phaseTransitionTable : Obligations.PhaseTransitionTable := by
  refine ⟨fun s c e h => ⟨issueCommand_illegal_of_error h, issueCommand_illegal h⟩, fun s t i hs hi h => ?_⟩
  cases i with
  | nop =>
    cases h
    rfl
  | init v =>
    simp only
    split
    · obtain ⟨x, hsel⟩ := exists_select_of_lt ‹v < 2›
      cases (exec_init_of_select hsel).symm.trans h
      rfl
    · cases (exec_init_of_unsupported (Nat.le_of_not_lt ‹_›)).symm.trans h
      rfl
  | pad =>
    obtain ⟨hdrop, hlegal, hseq⟩ := gated_row h
    refine ⟨hdrop, fun hp => ?_, fun ⟨he, hp⟩ => hseq he (by simp [State.legal, hp])⟩
    rcases padBody_next (hlegal (by simp [hp]) (by simp [State.legal, hp])) with ⟨_, rfl⟩ | ⟨_, _, m, _, _, rfl⟩
    · exact .inr rfl
    · exact .inl rfl
  | parse =>
    obtain ⟨hdrop, hlegal, hseq⟩ := gated_row h
    refine ⟨hdrop, fun hp => ?_, fun ⟨he, hp⟩ => hseq he (by simp [State.legal, hp])⟩
    obtain ⟨_, hwhole⟩ := hs.padded_blocks (by rw [hp]; rfl)
    cases (parseBody_of_blocks hwhole (hs.blockCount_ne_zero hp)).symm.trans
      (hlegal (by simp [hp]) (by simp [State.legal, hp]))
    rfl
  | expand =>
    obtain ⟨hdrop, hlegal, hseq⟩ := gated_row h
    refine ⟨hdrop, fun hp => ?_, fun ⟨he, hp⟩ => hseq he (by simp [State.legal, hp])⟩
    cases hlegal (by simp [hp]) (by simp [State.legal, hp])
    rfl
  | round =>
    obtain ⟨hdrop, _, hseq⟩ := gated_row h
    refine ⟨hdrop, fun ⟨hp, ht⟩ => ?_, fun ⟨hp, ht⟩ => hseq (by simp [hp]) (by simp [State.legal, ht]),
      fun ⟨he, hp⟩ => hseq he (by simp [State.legal, hp])⟩
    cases (exec_round_of_lt hp ht).symm.trans h
    exact hp
  | fold =>
    obtain ⟨hdrop, hlegal, hseq⟩ := gated_row h
    refine ⟨hdrop, fun ⟨hp, ht⟩ => ?_, fun ⟨hp, ht⟩ => hseq (by simp [hp]) (by simp [State.legal, ht.ne]),
      fun ⟨he, hp⟩ => hseq he (by simp [State.legal, hp])⟩
    exact phase_of_foldBody (hlegal (by simp [hp]) (by simp [State.legal, hp, ht]))
  | compress =>
    obtain ⟨hdrop, hlegal, hseq⟩ := gated_row h
    refine ⟨hdrop, fun hp => ?_, fun ⟨he, hp⟩ => hseq he (by simp [State.legal, hp])⟩
    exact phase_of_foldBody (s := finishRounds s) (hlegal (by simp [hp]) (by simp [State.legal, hp]))
  | format =>
    obtain ⟨hdrop, _, hseq⟩ := gated_row h
    refine ⟨hdrop, fun hp => hseq (by simp [hp]) (by simp [State.legal, hp]), fun ⟨he, hi⟩ => ?_⟩
    cases (exec_format_of_run he hi).symm.trans h
    rfl
  | hash v =>
    simp only
    split
    · obtain ⟨x, hsel⟩ := exists_select_of_lt ‹v < 2›
      rcases exec_hash_next hsel h with ⟨_, rfl⟩ | ⟨m, _, rfl⟩
      · exact .inr ⟨rfl, rfl⟩
      · exact .inl rfl
    · cases (exec_hash_of_unsupported (Nat.le_of_not_lt ‹_›)).symm.trans h
      exact ⟨rfl, rfl⟩

/-- Settles O22: the phase check in FINALIZE, and the two commands that start a run. -/
theorem finalizeEndsTheRun : Obligations.FinalizeEndsTheRun := by
  intro s hp
  have he : s.phase ≠ .error := by simp [hp]
  refine ⟨rfl, ⟨_, exec_format_of_run he (by simp [hp]), hp⟩, ?_,
    fun v x hv => ⟨_, exec_init_of_select (select_of_code hv), rfl, rfl⟩,
    fun v hv => ⟨exec_init_of_unsupported (by omega), exec_hash_of_unsupported (by omega)⟩,
    fun v x m hv hm => ⟨_, exec_hash_of_message (select_of_code hv) hm, rfl, ?_⟩⟩
  · rintro i (rfl | rfl | rfl | rfl | rfl | rfl) <;> exact gated_of_not_legal he (by simp [State.legal, hp])
  · obtain ⟨wv, w, heq⟩ := hashed_eq hm
    rw [heq]
    rfl

/-- Settles O24: what INIT writes, read off, with DIGEST cleared. -/
theorem initStartsARun : Obligations.InitStartsARun := by
  refine ⟨fun s v x hv => ⟨_, exec_init_of_select (select_of_code hv), ?_, ?_⟩,
    fun s v hv => ⟨_, exec_init_of_unsupported (by omega), ?_, ?_⟩⟩
  · rw [beginRun]
  · exact digestCleared_of_writeDigest (beginRun_digest x s)
  · rw [raiseError]
  · exact digestCleared_of_writeDigest (raiseError_digest _ s)

/-- Settles O33: the phase check, then the digest of H written over DIGEST. -/
theorem formatShowsHashState : Obligations.FormatShowsHashState :=
  fun s => ⟨gated_of_error, fun hp => gated_of_not_legal (by simp [hp]) (by simp [State.legal, hp]), fun he hi =>
    ⟨_, exec_format_of_run he hi, rfl, toNat_digestChars s,
      digestShows_of_writeDigest (u := s) rfl (showDigest_digest _ s)⟩⟩

/-- Settles O54: a stream of two blocks is sliced in two, and the chain takes them in order. -/
theorem twoBlockChaining : Obligations.TwoBlockChaining := by
  intro v c m h
  have hblocks : messageBlocks (v.cfg c) m =
      [byteBlock (v.cfg c) (padBytes (v.cfg c) m) 0, byteBlock (v.cfg c) (padBytes (v.cfg c) m) 1] := by
    rw [messageBlocks, h]
    rfl
  have hfits : 8 * m.length < 2 ^ (v.cfg c).lengthFieldBits := by
    cases v <;> simp [blocksOf] at h ⊢ <;> omega
  rw [hashMessage_of_fits v c hfits, finalHash, hblocks]
  rfl

/-- Settles O55: a character is a digit of a word, and a digest formats eight words. -/
theorem digestCharacters : Obligations.DigestCharacters := by
  refine ⟨fun v c h => ⟨length_formatDigest v c h, fun _ => getElem?_formatDigest v c h⟩, fun v c m d hd => ?_⟩
  rw [length_of_hashMessage v c hd]
  cases v <;> simp

/-- Settles O23: NOP's arm is the identity, and a word below 0x10 with a low bit set is in a group of R83. -/
theorem nopChangesNothing : Obligations.NopChangesNothing :=
  ⟨fun _ => rfl, decode_encode (i := .nop) rfl, fun _ hlo hhi => ⟨.lowBits, decode_eq_error_iff.2
    ⟨.inl (by omega), by omega⟩⟩⟩

end Sys2Proof.Proofs

namespace Sys2Proof.Machine

/-! Into and out of ERROR (R168, R170, R172). -/

section

variable {s t : State} {i : Instr} {a : HostEvent} {c : Byte} {v : Nat} {x : Variant} {m : List Byte}

/-- The fold of a block raises nothing (R145). -/
theorem foldBody_phase_ne_error (h : foldBody s = .next t) : t.phase ≠ .error := by
  rw [phase_of_foldBody h]
  split <;> decide

/-- An effect that ends in ERROR is a drop there or a raise: the writes of a command's own rule lead to another phase. -/
theorem Effect.kept_or_raised (h : Effect i s t) (ht : t.phase = .error) :
    (s.phase = .error ∧ t = s) ∨ ∃ e, e ≠ .noError ∧ t = raiseError e s := by
  cases h with
  | kept => exact .inl ⟨ht, rfl⟩
  | raised e he => exact .inr ⟨e, he, rfl⟩
  | init | pad | parse | parseNoBlock | expand => simp at ht
  | round hp => cases hp.symm.trans ht
  | fold _ _ hb => exact absurd ht (foldBody_phase_ne_error hb)
  | compress _ hb => exact absurd ht (foldBody_phase_ne_error hb)
  | format hi he => exact absurd ht he

@[simp] theorem hashed_phase : (hashed x m s).phase = .finalize := rfl

theorem hashed_err (hm : s.holdsMessage (x.cfg s.constants) m) : (hashed x m s).err = .noError := by
  obtain ⟨wv, w, heq⟩ := hashed_eq hm
  rw [heq]
  rfl

/-- In ERROR only INIT and HASH act: NOP changes nothing, and the phase check drops the other commands (R170). -/
theorem exec_of_error (hp : s.phase = .error) (hinit : ∀ v, i ≠ .init v) (hhash : ∀ v, i ≠ .hash v) :
    exec i s = .next s := by
  cases i with
  | nop => rfl
  | init v => exact absurd rfl (hinit v)
  | hash v => exact absurd rfl (hhash v)
  | pad | parse | expand | round | fold | compress | format => exact gated_of_error hp

/-- A command that leaves ERROR starts a run of a supported variant (R172). -/
theorem exec_leaves_error (hp : s.phase = .error) (h : exec i s = .next t) (ht : t.phase ≠ .error) :
    ∃ v, v < 2 ∧ (i = .init v ∨ i = .hash v) := by
  cases i with
  | init v =>
    refine ⟨v, Nat.lt_of_not_le fun hv => ht ?_, .inl rfl⟩
    cases (exec_init_of_unsupported hv).symm.trans h
    rfl
  | hash v =>
    refine ⟨v, Nat.lt_of_not_le fun hv => ht ?_, .inr rfl⟩
    cases (exec_hash_of_unsupported hv).symm.trans h
    rfl
  | nop | pad | parse | expand | round | fold | compress | format =>
    cases (exec_of_error hp (by simp) (by simp)).symm.trans h
    exact absurd hp ht

/-- A command word that leaves ERROR decodes to a command that does. -/
theorem issueCommand_leaves_error (hp : s.phase = .error) (h : issueCommand c s = .next t) (ht : t.phase ≠ .error) :
    ∃ v, v < 2 ∧ (decode c = .ok (.init v) ∨ decode c = .ok (.hash v)) := by
  rcases issueCommand_next h with ⟨i, hd, h⟩ | ⟨_, _, _, rfl⟩ | ⟨_, _, he, _⟩
  · obtain ⟨v, hv, rfl | rfl⟩ := exec_leaves_error hp h ht
    · exact ⟨v, hv, .inl hd⟩
    · exact ⟨v, hv, .inr hd⟩
  · exact absurd hp ht
  · exact absurd hp he

/-- An event that leaves ERROR is reset or the write of such a word to CMD. -/
theorem performEvent_leaves_error (hp : s.phase = .error) (h : performEvent a s = .next t) (ht : t.phase ≠ .error) :
    a = .reset ∨ ∃ x v, a = .regWrite 0 8 x ∧ v < 2 ∧
      (decode (BitVec.setWidth 8 x) = .ok (.init v) ∨ decode (BitVec.setWidth 8 x) = .ok (.hash v)) := by
  by_cases hr : a = .reset
  · exact .inl hr
  by_cases hc : ∃ x, a = .regWrite 0 8 x
  · obtain ⟨x, rfl⟩ := hc
    obtain ⟨v, hv, hd⟩ := issueCommand_leaves_error hp ((writeRegister_offset .cmd x).symm.trans h) ht
    exact .inr ⟨x, v, rfl, hv, hd⟩
  · rcases performEvent_next_of_not_command hr (not_exists.1 hc) h with
      ⟨_, rfl⟩ | rfl | ⟨_, _, rfl⟩ | ⟨_, _, _, rfl⟩ <;> exact absurd hp ht

/-- HASH ends in ERROR by a raise of INIT, or of the PAD that follows it (R159). -/
theorem exec_hash_raised (h : exec (.hash v) s = .next t) (ht : t.phase = .error) :
    (select v = none ∧ t = raiseError .unsupportedVariant s) ∨
    ∃ x, select v = some x ∧ t = raiseError .messageTooLong (beginRun x s) := by
  cases hsel : select v with
  | none =>
    cases (exec_hash_of_unsupported ((select_eq_none_iff v).1 hsel)).symm.trans h
    exact .inl ⟨rfl, rfl⟩
  | some x =>
    rcases exec_hash_next hsel h with ⟨_, rfl⟩ | ⟨m, _, rfl⟩
    · exact .inr ⟨x, rfl, rfl⟩
    · simp at ht

end

end Sys2Proof.Machine

namespace Sys2Proof.Proofs

open Sys2Proof.Machine

/-- Settles O18: the fields of a raise, and the commands that end in ERROR, by their effect and by the parts of HASH. -/
theorem raisingMakesNoOtherWrite : Obligations.RaisingMakesNoOtherWrite := by
  refine ⟨fun e s => ⟨?_, digestCleared_of_writeDigest (raiseError_digest e s)⟩,
    fun i s t hi h ht => (exec_effect hi h).kept_or_raised ht, fun v s t => exec_hash_raised⟩
  rw [raiseError]

/-- Settles O19: a command that is not INIT or HASH is dropped by the phase check, an ILLEGAL word by the dispatch. -/
theorem droppedInError : Obligations.DroppedInError := by
  intro s c hp hinit hhash
  cases hd : decode c with
  | ok i =>
    rw [issueCommand_of_ok hd]
    refine exec_of_error hp ?_ ?_
    · rintro v rfl
      exact hinit v hd
    · rintro v rfl
      exact hhash v hd
  | error e => exact issueCommand_illegal_of_error hd hp

/-- Settles O21: the events that leave ERROR, and where each of the three ways out leads. -/
theorem leavingErrorTakesANewRun : Obligations.LeavingErrorTakesANewRun := by
  refine ⟨fun s t hp h ht => ?_, fun s v _ hv => ?_,
    fun s v x m _ hv hm => ⟨_, exec_hash_of_message (select_of_code hv) hm, hashed_phase, hashed_err hm⟩,
    fun s rest _ h => ⟨_, step_reset h, rfl, rfl⟩⟩
  · rcases step_next h with ⟨_, rfl⟩ | ⟨a, rest, hhost, _, h⟩
    · exact absurd hp ht
    · simp only [← setWidth_eq_ofNat_mod]
      exact ⟨a, rest, hhost, performEvent_leaves_error (s := s.taking rest) hp h ht⟩
  · obtain ⟨x, hsel⟩ := exists_select_of_lt hv
    exact ⟨_, exec_init_of_select hsel, rfl, rfl⟩

end Sys2Proof.Proofs

namespace Sys2Proof.Machine

/-! The BUSY duty of the host (R194). -/

section

variable {s : State} {a : HostEvent}

/-- Reset and the 8-byte read of STATUS are the only events the BUSY duty allows (R194). -/
theorem allowedWhileBusy_iff : a.allowedWhileBusy = true ↔ a = .reset ∨ a = .regRead 0x008 8 := by
  cases a <;> simp [HostEvent.allowedWhileBusy]

/-- An event that breaks the BUSY duty is refused, whatever it would do (I18). -/
theorem hostEvent_of_busy (hb : s.busy = true) (ha : a.allowedWhileBusy = false) :
    hostEvent a s = .refused (.accessWhileBusy a) := by
  simp [hostEvent, hb, ha]

end

end Sys2Proof.Machine

namespace Sys2Proof.Proofs

open Sys2Proof.Machine

/-- Settles O7: such an event breaks the BUSY duty, and taking it off the queue leaves BUSY as it is. -/
theorem accessWhileBusyIsRefused : Obligations.AccessWhileBusyIsRefused := by
  intro s a rest hb h hreset hstatus
  have ha : a.allowedWhileBusy = false :=
    Bool.eq_false_iff.2 fun hallowed => (allowedWhileBusy_iff.1 hallowed).elim hreset hstatus
  exact (step_of_cons h).trans (hostEvent_of_busy (s := s.taking rest) hb ha)

end Sys2Proof.Proofs
